-- ==== Sys2Proof/Word.lean ====
section
/-! DEFINITION. The widths of LH2CORE's values: a sample or symbol, a raw byte, a command word. -/

namespace Sys2Proof

/-- One sample, symbol or decoded bit, domain {0, 1}: `false` is 0 and `true` is 1
(spec/10_state.md R21, spec/30_encoding.md R75, R77). -/
abbrev Bit := Bool

/-- A raw byte, or the symbol byte of SYM: the data field of the command word (spec/30_encoding.md R70). -/
abbrev Byte := BitVec 8

/-- The 11-bit command word the host presents once per step, bit 0 the least significant
(spec/30_encoding.md R70). -/
abbrev CmdWord := BitVec 11

end Sys2Proof
end

