-- ==== Sys2Proof/Config.lean ====
section
/-! DEFINITION. The constants of the source (`TAPS = 16` and `LOOKAHEAD = 2` stand as literals in the types, spec/00_scope.md
R7), the parameter record `P` (spec/00_scope.md R7), the spec's three test kernels
(R9), and the one thing the spec leaves open: the kernel's coefficients, a free value. -/

namespace Sys2Proof

namespace Config

/-- `RESYNC_LIMIT`: the run count at which the fallback fires (spec/00_scope.md R7, spec/42_decoder.md R116). -/
abbrev resyncLimit : Nat := 10

/-- The least admissible `CNT_MAX` (spec/00_scope.md R7: "natural ≥ 10"). -/
abbrev cntMaxLeast : Nat := 10

/-- The tolerance of the unit DC gain, 1e-9 (spec/00_scope.md R8). -/
abbrev gainTolerance : Rat := 1 / 1000000000

end Config

/-- `K[0..15]`: sixteen exact rational coefficients (spec/00_scope.md R7, spec/40_fir.md R93). -/
abbrev Kernel := Vector Rat 16

/-- The coefficient `K[i]`. -/
def Kernel.coeff (K : Kernel) (i : Fin 16) : Rat := K[i]

/-- The DC gain `K[0] + ... + K[15]`. -/
def Kernel.gain (K : Kernel) : Rat := ∑ i : Fin 16, K.coeff i

/-- The two facts spec/00_scope.md R8 allows about a kernel: (a) `K[i] = K[15 - i]`, said for all
sixteen `i` (which is the same as for 0..7), and (b) `| gain - 1 | ≤ 1e-9`, written as its two sides. -/
abbrev Kernel.Admissible (K : Kernel) : Prop :=
  (∀ i : Fin 16, K.coeff i = K.coeff i.rev) ∧
    K.gain - 1 ≤ Config.gainTolerance ∧ 1 - K.gain ≤ Config.gainTolerance

/-- The parameter record `P` (spec/00_scope.md R7), fixed before the first step. `posW = none` is `POS_W = ∞`. -/
structure Params where
  /-- `K[0..15]` -/
  kernel : Kernel
  /-- `THRESHOLD` -/
  threshold : Rat
  /-- `SKIP` -/
  skip : Nat
  /-- `POS_W` -/
  posW : Option Nat
  /-- `CNT_MAX` -/
  cntMax : Nat
  deriving DecidableEq, Repr

namespace Config

/-- Test kernel `KT1`, numerators over 256 (spec/00_scope.md R9: the spec's own, for its vectors only). -/
def kt1 : Kernel :=
  #v[1 / 256, 2 / 256, 3 / 256, 10 / 256, 20 / 256, 28 / 256, 32 / 256, 32 / 256,
     32 / 256, 32 / 256, 28 / 256, 20 / 256, 10 / 256, 3 / 256, 2 / 256, 1 / 256]

/-- Test kernel `KT2`, numerators over 64, with negative taps (spec/00_scope.md R9). -/
def kt2 : Kernel :=
  #v[-2 / 64, -1 / 64, 1 / 64, 3 / 64, 6 / 64, 8 / 64, 8 / 64, 9 / 64,
     9 / 64, 8 / 64, 8 / 64, 6 / 64, 3 / 64, 1 / 64, -1 / 64, -2 / 64]

/-- Test kernel `KT3`, numerators over 20 (spec/00_scope.md R9). -/
def kt3 : Kernel :=
  #v[0, 0, 0, 1 / 20, 1 / 20, 2 / 20, 3 / 20, 3 / 20,
     3 / 20, 3 / 20, 2 / 20, 1 / 20, 1 / 20, 0, 0, 0]

/-- FREE VALUE (log entry 2): sixteen rationals about which nothing is known. -/
opaque freeKernel : Kernel

/-- The kernel of `State.reset`: the free kernel, narrowed to the kernels spec/00_scope.md R8 admits. Every admissible
kernel is a value it may have, and nothing but R8 can be proved of it (log entry 2; DESIGN CHOICE, safe). -/
def kernel : Kernel := if freeKernel.Admissible then freeKernel else kt1

/-- The record with the defaults of spec/00_scope.md R7 for everything but the kernel. -/
def paramsWith (K : Kernel) : Params where
  kernel := K
  threshold := 19 / 20
  skip := 15
  posW := some 32
  cntMax := 15

/-- The parameter record of `State.reset`: the defaults of spec/00_scope.md R7 and the open kernel (log entry 3). -/
def params : Params := paramsWith kernel

end Config

end Sys2Proof
end

