-- ==== Sys2Proof/Machine/State.lean ====
section
/-! DEFINITION. The state of LH2CORE: the registers of spec/10_state.md R20, and three fields of the model's own (the
parameter record, the words the host presents, and the output of the step just taken). -/

namespace Sys2Proof.Machine

/-- The tracked line level `lvl`, LH2's `state` (spec/10_state.md R27). -/
inductive Level where
  | unknown
  | l0
  | l1
  deriving DecidableEq, Repr

/-- A decoded-bit pair `(bit, position)` (spec/30_encoding.md R77). -/
structure Emission where
  bit : Bit
  position : Nat
  deriving DecidableEq, Repr

/-- LH2's FilterState: the circular history and its write index (spec/10_state.md R21, R22). A `Fin 16` adds and subtracts
modulo 16, as the 4-bit `cursor` does. -/
structure FilterState where
  /-- `hist[0..15]` -/
  hist : Vector Bit 16
  /-- `cursor` -/
  cursor : Fin 16
  deriving DecidableEq, Repr

/-- The sample in slot `j`: `hist[j]` (spec/00_scope.md R11). -/
def FilterState.slot (f : FilterState) (j : Fin 16) : Bit := f.hist[j]

/-- The four registers `DEC_PROCESS` reads and writes (spec/42_decoder.md R115): LH2's DecoderState and the position
of the next symbol (spec/10_state.md R25, R27 to R29). -/
structure DecoderState where
  /-- `lvl` -/
  lvl : Level
  /-- `last`: `none`, `some 0` or `some 1` -/
  last : Option Bit
  /-- `counter` -/
  counter : Nat
  /-- `pos` -/
  pos : Nat
  deriving DecidableEq, Repr

/-- The state. `fir`, `skipCnt`, `winN`, `win`, `dec` and `ended` are the spec's record `S` (spec/10_state.md R20); `par`,
`cmds` and `out` are the model's own fields. -/
structure State where
  /-- The parameter record `P`, an argument of the model that no step changes (spec/00_scope.md R7; log entry 1). -/
  par : Params
  /-- `hist` and `cursor` (R21, R22) -/
  fir : FilterState
  /-- `skip_cnt` (R23) -/
  skipCnt : Nat
  /-- `win_n`, 0, 1 or 2 (R24) -/
  winN : Fin 3
  /-- `win[0]`, the older, and `win[1]` (R24) -/
  win : Vector Bit 2
  /-- `lvl`, `last`, `counter` and `pos` (R25, R27 to R29) -/
  dec : DecoderState
  /-- `ended` (R30) -/
  ended : Bool
  /-- The command words the host presents in the coming steps, the next one first (spec/30_encoding.md R70; log entry 4). -/
  cmds : List CmdWord
  /-- The output of the step just taken, overwritten by every step (spec/30_encoding.md R76; log entry 5). -/
  out : Option Emission
  deriving DecidableEq, Repr

/-- The reasons for which a step faults: none. "The table of exception causes is therefore empty" (spec/60_exceptions.md
R160), so no constructor and nobody who raises one. -/
inductive Fault
  deriving DecidableEq, Repr

/-- The reasons for which a step is refused. -/
inductive Refusal where
  /-- Of the task's interface: an operation without a meaning. No arm of `exec` answers it, since every operation has its
  meaning and the step has "no refusal outcome" (spec/60_exceptions.md R160). Safe: it would only stop. -/
  | notModelled (mnemonic : String)
  deriving DecidableEq, Repr

/-- The filter after RESET (spec/10_state.md R36): sixteen zeros and cursor 0. -/
def FilterState.reset : FilterState where
  hist := Vector.replicate 16 false
  cursor := 0

/-- The decoder registers after RESET (spec/10_state.md R36). -/
def DecoderState.reset : DecoderState where
  lvl := .unknown
  last := none
  counter := 0
  pos := 0

/-- Every register at the value of the table of spec/10_state.md R36, for the parameter record `P`; no word presented and no
output. -/
def State.resetOf (P : Params) : State where
  par := P
  fir := FilterState.reset
  skipCnt := P.skip
  winN := 0
  win := #v[false, false]
  dec := DecoderState.reset
  ended := false
  cmds := []
  out := none

/-- The machine right after reset, with the default parameters and the open kernel (spec/10_state.md R36; spec/00_scope.md
R7; log entries 2, 3, 4). -/
def State.reset : State := State.resetOf Config.params

end Sys2Proof.Machine
end

