-- ==== Sys2Proof/Machine/Operands.lean ====
section
/-! DEFINITION. Operand assembly: the one operand bit of PUSH and SYM, and the number a bit stands for
(spec/30_encoding.md R72 to R74). -/

namespace Sys2Proof.Machine

/-- The sample of PUSH: `x = data[0]`; `data[7:1]` are ignored (spec/30_encoding.md R72). -/
def sampleOf (data : Byte) : Bit := data.getLsbD 0

/-- The symbol of SYM: `s = data[0]`; `data[7:1]` are ignored (spec/30_encoding.md R73). -/
def symbolOf (data : Byte) : Bit := data.getLsbD 0

/-- The exact number 0 or 1 a bit stands for where the filter multiplies it (spec/30_encoding.md R72, spec/40_fir.md R92). -/
def bitValue (b : Bit) : Rat := if b then 1 else 0

/-- The level a symbol names: `L0` for 0 and `L1` for 1 (spec/42_decoder.md R119). -/
def levelOf (a : Bit) : Level := if a then .l1 else .l0

end Sys2Proof.Machine
end

