-- ==== Sys2Proof/Syntax.lean ====
section
/-! DEFINITION. The operations of LH2CORE: the five rows of spec/opcode_table.json (spec/30_encoding.md R71). -/

namespace Sys2Proof

/-- One operation. PUSH and SYM carry the whole data byte of their word, as the stimulus form passes it through
(spec/30_encoding.md R79, R81); which of its bits counts is said by the meaning (R72, R73). -/
inductive Instr where
  /-- RESET (spec/43_stream_ops.md R141) -/
  | reset
  /-- IDLE (R145) -/
  | idle
  /-- PUSH of a raw byte (R142) -/
  | push (data : Byte)
  /-- SYM of a symbol byte (R143) -/
  | sym (data : Byte)
  /-- END (R144) -/
  | endStream
  deriving DecidableEq, Repr

/-- The operation's mnemonic, as spec/opcode_table.json spells it. -/
def Instr.mnemonic : Instr → String
  | .reset => "RESET"
  | .idle => "IDLE"
  | .push _ => "PUSH"
  | .sym _ => "SYM"
  | .endStream => "END"

end Sys2Proof
end

