-- ==== Sys2Proof/Decode.lean ====
section
/-! DEFINITION. The decoder of the command word, the encoder, and the opcode table they are held against
(spec/30_encoding.md R70, R71, R79; spec/opcode_table.json). -/

namespace Sys2Proof

/-- A row of the opcode table: a word selects the row when `word AND mask = pattern` (spec/30_encoding.md R71). -/
structure OpRow where
  mnemonic : String
  pattern : CmdWord
  mask : CmdWord
  deriving DecidableEq, Repr

/-- The word selects the row. -/
def OpRow.selects (r : OpRow) (cw : CmdWord) : Bool := cw &&& r.mask == r.pattern

/-- The table of spec/30_encoding.md R71 and spec/opcode_table.json, row for row. -/
def opcodeTable : List OpRow :=
  [⟨"RESET", 0x400, 0x400⟩,
   ⟨"IDLE", 0x000, 0x700⟩,
   ⟨"PUSH", 0x100, 0x700⟩,
   ⟨"SYM", 0x200, 0x700⟩,
   ⟨"END", 0x300, 0x700⟩]

/-- `rst = cw[10]` (spec/30_encoding.md R70). -/
def rstField (cw : CmdWord) : Bool := cw.getLsbD 10

/-- `cmd = cw[9:8]` (R70). -/
def cmdField (cw : CmdWord) : BitVec 2 := cw.extractLsb' 8 2

/-- `data = cw[7:0]` (R70). -/
def dataField (cw : CmdWord) : Byte := cw.extractLsb' 0 8

/-- The operation a command word selects: `rst` wins over `cmd`, then `cmd` selects (spec/30_encoding.md R70, R71;
spec/60_exceptions.md R164). Total: each of the 2048 words selects one operation (R79). -/
def decode (cw : CmdWord) : Instr :=
  if rstField cw then .reset
  else
    match cmdField cw with
    | 0b00#2 => .idle
    | 0b01#2 => .push (dataField cw)
    | 0b10#2 => .sym (dataField cw)
    | 0b11#2 => .endStream

/-- The word of an operation, with ignored bits 0 but for the data byte of PUSH and SYM, which passes through unchanged
(spec/30_encoding.md R79, R81). -/
def encode : Instr → CmdWord
  | .reset => 0b100#3 ++ 0#8
  | .idle => 0b000#3 ++ 0#8
  | .push data => 0b001#3 ++ data
  | .sym data => 0b010#3 ++ data
  | .endStream => 0b011#3 ++ 0#8

/-- Why a number is no command word. -/
inductive DecodeReject where
  /-- A bit above bit 10 is set: the number is no 11-bit word (spec/30_encoding.md R70, R80; log entry 13). -/
  | widerThanElevenBits
  deriving DecidableEq, Repr

/-- Decode a number: a number below 2^11 is a command word, any other is rejected by name. -/
def decodeNumber (w : Nat) : Except DecodeReject Instr :=
  if w < 2 ^ 11 then .ok (decode (BitVec.ofNat 11 w)) else .error .widerThanElevenBits

/-- The command word whose low `nbits` bits are `w` and whose bits above them are 0. -/
def tableWord (nbits w : Nat) : Nat := w % 2 ^ nbits

/-- What the decoder reads from a word of spec/opcode_table.json's numbering, `nbits` of it given. -/
def decodeTableWord (nbits w : Nat) : Option Instr :=
  match decodeNumber (tableWord nbits w) with
  | .ok i => some i
  | .error _ => none

/-- The bits of a word on which its operation depends (spec/30_encoding.md R79): `rst` alone for RESET; `rst` and `cmd`
for IDLE and END; those and the operand bit for PUSH and SYM. -/
def significantBits (cw : CmdWord) : CmdWord :=
  match decode cw with
  | .reset => 0x400
  | .idle => 0x700
  | .push _ => 0x701
  | .sym _ => 0x701
  | .endStream => 0x700

end Sys2Proof
end

