-- ==== Sys2Proof/Machine/Ops.lean ====
section
/-! DEFINITION. The named operations over the registers and the two ports: counting with a limit, fetching the command of a
step, driving the output, ignoring a step after END, reset. There is no exception to take and none to return from
(spec/60_exceptions.md R160, R165, R166). -/

namespace Sys2Proof.Machine

/-- Add to `counter` with saturation at `CNT_MAX` (spec/10_state.md R29, spec/43_stream_ops.md R153). -/
def satAdd (P : Params) (c n : Nat) : Nat := min (c + n) P.cntMax

/-- `(pos + 1) mod 2^POS_W`, or `pos + 1` with `POS_W = ∞` (spec/42_decoder.md R121, spec/10_state.md R25). -/
def nextPos (P : Params) (pos : Nat) : Nat :=
  match P.posW with
  | some W => (pos + 1) % 2 ^ W
  | none => pos + 1

/-- The slot `(w - i) mod 16` that tap `i` reads (spec/40_fir.md R92, spec/43_stream_ops.md R152). -/
def tapSlot (w i : Fin 16) : Fin 16 := w - i

/-- Drive the output of this step: a pair, or none (spec/30_encoding.md R76, spec/00_scope.md R11). -/
def State.drive (s : State) (e : Option Emission) : State := { s with out := e }

/-- While `ended = 1` an operation other than RESET leaves the state and drives no output; otherwise it has its effect
(spec/43_stream_ops.md R146, spec/10_state.md R30). -/
def State.unlessEnded (s effect : State) : State := if s.ended then s.drive none else effect

/-- Every register to its reset value, whatever the state before (spec/43_stream_ops.md R141). `P` is not touched (R181), and
the host's later words are its own. -/
def State.toReset (s : State) : State := { State.resetOf s.par with cmds := s.cmds }

/-- The word of a step in which the host supplies nothing (spec/30_encoding.md R71, R81: IDLE; log entry 4). -/
def idleWord : CmdWord := 0x000

/-- The command word of this step, and the state without it. With nothing presented the step is IDLE
(spec/30_encoding.md R71: "IDLE is a step in which the host supplies nothing"; log entry 4). -/
def State.fetch (s : State) : CmdWord × State :=
  match s.cmds with
  | [] => (idleWord, s)
  | cw :: rest => (cw, { s with cmds := rest })

end Sys2Proof.Machine
end

