-- ==== Sys2Proof/Machine/Flags.lean ====
section
/-! DEFINITION. The predicates the operations test. The block has no condition codes (spec/10_state.md R31); `lvl`, `last`,
`ended`, `win_n` and `skip_cnt = 0` act as its status bits. -/

namespace Sys2Proof.Machine

/-- "Symbol equals `lvl`" (spec/10_state.md R27): false for both symbols while the level is UNKNOWN. -/
def Level.sees : Level → Bit → Bool
  | .unknown, _ => false
  | .l0, a => a == false
  | .l1, a => a == true

/-- Warm-up outputs are still being dropped (spec/41_slicer.md R105). -/
def State.discarding (s : State) : Bool := decide (0 < s.skipCnt)

/-- The run count `c1` has reached the limit at which an unchanged symbol fires the fallback (spec/42_decoder.md R116). -/
def fallbackDue (c1 : Nat) : Bool := decide (Config.resyncLimit ≤ c1)

/-- A lookahead symbol confirms the candidate `a`; an absent one is a mismatch (spec/42_decoder.md R117, spec/00_scope.md R12). -/
def confirms (la : Option Bit) (a : Bit) : Bool := la == some a

end Sys2Proof.Machine
end

