-- ==== Sys2Proof/Machine/Decoder.lean ====
section
/-! DEFINITION. The decoder: `DEC_PROCESS`, `DEC_ACCEPT` and `DEC_DRAIN` (spec/42_decoder.md R115 to R123). -/

namespace Sys2Proof.Machine

/-- Unchanged symbol (spec/42_decoder.md R116): count, and at 10 clear the count and force `last = some 0`. -/
def DecoderState.unchanged (P : Params) (d : DecoderState) : DecoderState :=
  if fallbackDue (satAdd P d.counter 1) then { d with counter := 0, last := some false }
  else { d with counter := satAdd P d.counter 1 }

/-- Failed validation (spec/42_decoder.md R118): count `n` more and nothing else; no test against 10 here. -/
def DecoderState.noise (P : Params) (d : DecoderState) (n : Nat) : DecoderState :=
  { d with counter := satAdd P d.counter n }

/-- Resolving the pending half-bit of an accepted edge with `counter ≠ 0` (spec/42_decoder.md R120). -/
def DecoderState.resolve (d : DecoderState) : DecoderState × Option Emission :=
  match d.last with
  | some false => ({ d with last := none }, some ⟨true, d.pos⟩)
  | some true => ({ d with last := none }, some ⟨false, d.pos⟩)
  | none => ({ d with last := some true }, none)

/-- Accepted edge (spec/42_decoder.md R119): adopt the level; with `counter = 0` nothing else, otherwise clear the counter
and resolve. -/
def DecoderState.acceptEdge (d : DecoderState) (a : Bit) : DecoderState × Option Emission :=
  if d.counter = 0 then ({ d with lvl := levelOf a }, none)
  else DecoderState.resolve { d with lvl := levelOf a, counter := 0 }

/-- Position bookkeeping, at the end of every call (spec/42_decoder.md R121). -/
def DecoderState.advance (P : Params) (d : DecoderState) : DecoderState := { d with pos := nextPos P d.pos }

/-- The one case of spec/42_decoder.md R116, R118, R119 that applies, chosen by R116 and R117. -/
def decCase (P : Params) (d : DecoderState) (a : Bit) (la0 la1 : Option Bit) : DecoderState × Option Emission :=
  if d.lvl.sees a then (d.unchanged P, none)
  else if !confirms la0 a then (d.noise P 1, none)
  else if !confirms la1 a then (d.noise P 2, none)
  else d.acceptEdge a

/-- `DEC_PROCESS(S, a, la0, la1)` (spec/42_decoder.md R115). -/
def decProcess (P : Params) (d : DecoderState) (a : Bit) (la0 la1 : Option Bit) : DecoderState × Option Emission :=
  ((decCase P d a la0 la1).1.advance P, (decCase P d a la0 la1).2)

/-- `DEC_ACCEPT(S, b)` (spec/42_decoder.md R122): a window that is not full takes the symbol; a full one processes its
older symbol with both lookahead symbols present and moves up. -/
def decAccept (s : State) (b : Bit) : State × Option Emission :=
  match s.winN with
  | 0 => ({ s with win := s.win.set 0 b, winN := 1 }, none)
  | 1 => ({ s with win := s.win.set 1 b, winN := 2 }, none)
  | 2 =>
    ({ s with
        dec := (decProcess s.par s.dec s.win[0] (some s.win[1]) (some b)).1
        win := #v[s.win[1], b] },
      (decProcess s.par s.dec s.win[0] (some s.win[1]) (some b)).2)

/-- `DEC_DRAIN(S)` (spec/42_decoder.md R123): the window's symbols, the older first, with absent lookahead. The second part
is whatever the calls emit, in order. -/
def decDrain (s : State) : State × List Emission :=
  match s.winN with
  | 0 => (s, [])
  | 1 =>
    let r1 := decProcess s.par s.dec s.win[0] none none
    ({ s with dec := r1.1, winN := 0 }, r1.2.toList)
  | 2 =>
    let r1 := decProcess s.par s.dec s.win[0] (some s.win[1]) none
    let r2 := decProcess s.par r1.1 s.win[1] none none
    ({ s with dec := r2.1, winN := 0 }, r1.2.toList ++ r2.2.toList)

end Sys2Proof.Machine
end

