-- ==== Sys2Proof/Machine/Fir.lean ====
section
/-! DEFINITION. `FIR_STEP`, the first stage of PUSH (spec/40_fir.md R90 to R93). -/

namespace Sys2Proof.Machine

/-- History update (spec/40_fir.md R91): the new sample into slot `cursor`, then the cursor on by one modulo 16. -/
def FilterState.push (f : FilterState) (b : Bit) : FilterState where
  hist := f.hist.set f.cursor b
  cursor := f.cursor + 1

/-- `Σ_{i = 0..15} hist'[(w - i) mod 16] * K[i]`, exact (spec/40_fir.md R92, R93). -/
def firSum (K : Kernel) (f : FilterState) (w : Fin 16) : Rat :=
  ∑ i : Fin 16, bitValue (f.slot (tapSlot w i)) * K.coeff i

/-- The filtered sample of a push: the write comes first, so the new sample is under tap `K[0]` (spec/40_fir.md R91, R92). -/
def FilterState.output (K : Kernel) (f : FilterState) (b : Bit) : Rat :=
  firSum K (f.push b) f.cursor

/-- `FIR_STEP(S, b)`: writes `hist` and `cursor`, returns `y`, reads and writes nothing else (spec/40_fir.md R90). -/
def firStep (s : State) (b : Bit) : State × Rat :=
  ({ s with fir := s.fir.push b }, s.fir.output s.par.kernel b)

end Sys2Proof.Machine
end

