-- ==== Sys2Proof/Machine/Slicer.lean ====
section
/-! DEFINITION. The warm-up discard and the threshold slicer (spec/41_slicer.md R105 to R108). -/

namespace Sys2Proof.Machine

/-- What `DISCARD` says of the filter output of a PUSH (spec/41_slicer.md R105). -/
inductive Fate where
  | dropped
  | kept
  deriving DecidableEq, Repr

/-- `DISCARD(S)` (spec/41_slicer.md R105): reads and writes `skip_cnt` only. -/
def discardWarmup (s : State) : State × Fate :=
  if s.discarding then ({ s with skipCnt := s.skipCnt - 1 }, .dropped) else (s, .kept)

/-- `SLICE(y)`: 1 when `y ≥ THRESHOLD`, 0 otherwise; equality gives 1 (spec/41_slicer.md R106, R107). -/
def slice (threshold y : Rat) : Bit := decide (threshold ≤ y)

/-- The slicer of a fixed-point realisation: with `K[i] = k[i] / 2^F`, `Y` the sum of the selected `k[i]` and
`THRESHOLD = p / q`, the test `q * Y ≥ p * 2^F` (spec/41_slicer.md R108). -/
def sliceFixed (p : Int) (q F : Nat) (Y : Int) : Bit := decide (p * 2 ^ F ≤ (q : Int) * Y)

/-- `T_INT = ceil(19 * 2^F / 20)`, the integer threshold for `THRESHOLD = 19/20` (spec/41_slicer.md R108). -/
def thresholdInt (F : Nat) : Int := (19 * 2 ^ F + 19) / 20

end Sys2Proof.Machine
end

