-- ==== Sys2Proof/Machine/Stream.lean ====
section
/-! DEFINITION. The meanings of the five operations (spec/43_stream_ops.md R141 to R146). -/

namespace Sys2Proof.Machine

/-- Deliver a symbol to the decoder and drive what it emits (spec/43_stream_ops.md R142, R143). -/
def State.deliver (s : State) (b : Bit) : State := (decAccept s b).1.drive (decAccept s b).2

/-- What follows the filter in a PUSH: discard, then slicer and decoder for a kept output (spec/43_stream_ops.md R142). -/
def State.afterFilter (s : State) (y : Rat) : State :=
  match discardWarmup s with
  | (s', .dropped) => s'.drive none
  | (s', .kept) => s'.deliver (slice s'.par.threshold y)

/-- The three stages of a PUSH in their fixed order (spec/43_stream_ops.md R142, spec/60_exceptions.md R164). -/
def State.pushSample (s : State) (b : Bit) : State := (firStep s b).1.afterFilter (firStep s b).2

/-- Drain the window and close the stream, `out = none` (spec/43_stream_ops.md R144; log entry 12). -/
def State.endOfStream (s : State) : State := { (decDrain s).1 with ended := true, out := none }

/-- RESET (spec/43_stream_ops.md R141), also when `ended = 1`. -/
def execReset (s : State) : Host.Outcome State Fault Refusal := .next s.toReset

/-- IDLE: `S' = S`, `out = none` (spec/43_stream_ops.md R145). -/
def execIdle (s : State) : Host.Outcome State Fault Refusal := .next (s.drive none)

/-- PUSH of the sample `data[0]` (spec/43_stream_ops.md R142, R146). -/
def execPush (data : Byte) (s : State) : Host.Outcome State Fault Refusal :=
  .next (s.unlessEnded (s.pushSample (sampleOf data)))

/-- SYM of the symbol `data[0]` (spec/43_stream_ops.md R143, R146). -/
def execSym (data : Byte) (s : State) : Host.Outcome State Fault Refusal :=
  .next (s.unlessEnded (s.deliver (symbolOf data)))

/-- END (spec/43_stream_ops.md R144, R146). -/
def execEndStream (s : State) : Host.Outcome State Fault Refusal := .next (s.unlessEnded s.endOfStream)

end Sys2Proof.Machine
end

