-- ==== Sys2Proof/Machine/Dispatch.lean ====
section
/-! DEFINITION. The one dispatch: an arm per constructor of `Instr` (spec/43_stream_ops.md R140). -/

namespace Sys2Proof.Machine

def exec (i : Instr) (s : State) : Host.Outcome State Fault Refusal :=
  match i with
  | .reset => Sys2Proof.Machine.execReset s
  | .idle => Sys2Proof.Machine.execIdle s
  | .push data => Sys2Proof.Machine.execPush data s
  | .sym data => Sys2Proof.Machine.execSym data s
  | .endStream => Sys2Proof.Machine.execEndStream s

end Sys2Proof.Machine
end

