-- ==== Sys2Proof/Machine/Step.lean ====
section
/-! DEFINITION. One step of the block, `STEP(P, S, cw)` (spec/43_stream_ops.md R140), with the command word taken from the
words the host presents. -/

namespace Sys2Proof.Machine

/-- Take the command word of this step, decode it and run it: nothing else happens, and nothing happens between steps
(spec/43_stream_ops.md R140). -/
def step (s : State) : Host.Outcome State Fault Refusal := exec (decode s.fetch.1) s.fetch.2

/-- `s` with the word whose low `nbits` bits are `w` presented in the very next step, in place of the one presented there
(log entry 4). -/
def State.withFetchWord (s : State) (nbits w : Nat) : State :=
  { s with cmds := BitVec.ofNat 11 (tableWord nbits w) :: s.cmds.tail }

end Sys2Proof.Machine
end

