-- ==== Sys2Proof/Machine/Ports.lean ====
section
/-! DEFINITION. The pin-level codes: the output word (spec/30_encoding.md R76) and the 2-bit codes of `lvl` and `last`
(R78). -/

namespace Sys2Proof.Machine

/-- The output word of `POS_W + 2` bits: `out_valid`, `out_bit`, `out_pos`, the last two 0 when nothing is emitted
(spec/30_encoding.md R76). -/
def outWord (W : Nat) : Option Emission → BitVec (1 + 1 + W)
  | none => 0#1 ++ 0#1 ++ 0#W
  | some e => 1#1 ++ BitVec.ofBool e.bit ++ BitVec.ofNat W e.position

/-- The code of `lvl`: `L0 = 0b00`, `L1 = 0b01`, `UNKNOWN = 0b11` (spec/30_encoding.md R78). -/
def Level.code : Level → BitVec 2
  | .l0 => 0b00
  | .l1 => 0b01
  | .unknown => 0b11

/-- The code of `last`: `none = 0b00`, `some 0 = 0b10`, `some 1 = 0b11` (spec/30_encoding.md R78). -/
def lastCode : Option Bit → BitVec 2
  | none => 0b00
  | some false => 0b10
  | some true => 0b11

end Sys2Proof.Machine
end

