-- ==== Sys2Proof/Machine/Stimulus.lean ====
section
/-! DEFINITION. The stimulus lines of spec/30_encoding.md R81 and the pseudo-operations of R82, and the command words they
stand for. -/

namespace Sys2Proof.Machine

/-- A stimulus line or pseudo-operation with its numbers as written (spec/30_encoding.md R81, R82). -/
inductive Line where
  | reset
  | idle
  | push (v : Nat)
  | sym (v : Nat)
  | endStream
  /-- `RUN n, v`: `n` copies of `PUSH v` -/
  | run (n v : Nat)
  /-- `SRUN n, v`: `n` copies of `SYM v` -/
  | srun (n v : Nat)
  /-- `WAIT n`: `n` copies of `IDLE` -/
  | wait (n : Nat)
  deriving DecidableEq, Repr

/-- "with `0 ≤ v ≤ 255`" (spec/30_encoding.md R81). -/
def Line.wellFormed : Line → Bool
  | .reset => true
  | .idle => true
  | .push v => v ≤ 255
  | .sym v => v ≤ 255
  | .endStream => true
  | .run _ v => v ≤ 255
  | .srun _ v => v ≤ 255
  | .wait _ => true

/-- The command words of a line (spec/30_encoding.md R81, R82). -/
def Line.words : Line → List CmdWord
  | .reset => [0x400]
  | .idle => [0x000]
  | .push v => [BitVec.ofNat 11 (0x100 + v)]
  | .sym v => [BitVec.ofNat 11 (0x200 + v)]
  | .endStream => [0x300]
  | .run n v => List.replicate n (BitVec.ofNat 11 (0x100 + v))
  | .srun n v => List.replicate n (BitVec.ofNat 11 (0x200 + v))
  | .wait n => List.replicate n 0x000

/-- A stimulus list as the words applied one per step, first line first (spec/30_encoding.md R81). -/
def wordsOf (lines : List Line) : List CmdWord := lines.flatMap Line.words

end Sys2Proof.Machine
end

