-- ==== Sys2Proof/Machine/Table.lean ====
section
/-! DEFINITION. The decoder's state machine as the spec's own table of eight rows (spec/42_decoder.md R126), to hold the
algorithm of R115 against. -/

namespace Sys2Proof.Machine

/-- The eight rows of spec/42_decoder.md R126, in its order. -/
inductive TableRow where
  | unchangedBelowTen
  | unchangedFallback
  | noiseAtStep0
  | noiseAtStep1
  | edgeAtZero
  | edgeFirst
  | edgeEmitsZero
  | edgeEmitsOne
  deriving DecidableEq, Repr

/-- The condition of a row: the event in the middle two columns. -/
def TableRow.Applies (r : TableRow) (P : Params) (d : DecoderState) (a : Bit) (la0 la1 : Option Bit) : Prop :=
  match r with
  | .unchangedBelowTen => d.lvl = levelOf a ∧ min (d.counter + 1) P.cntMax < 10
  | .unchangedFallback => d.lvl = levelOf a ∧ 10 ≤ min (d.counter + 1) P.cntMax
  | .noiseAtStep0 => d.lvl ≠ levelOf a ∧ la0 ≠ some a
  | .noiseAtStep1 => d.lvl ≠ levelOf a ∧ la0 = some a ∧ la1 ≠ some a
  | .edgeAtZero => d.lvl ≠ levelOf a ∧ la0 = some a ∧ la1 = some a ∧ d.counter = 0
  | .edgeFirst => d.lvl ≠ levelOf a ∧ la0 = some a ∧ la1 = some a ∧ d.counter ≠ 0 ∧ d.last = none
  | .edgeEmitsZero => d.lvl ≠ levelOf a ∧ la0 = some a ∧ la1 = some a ∧ d.counter ≠ 0 ∧ d.last = some true
  | .edgeEmitsOne => d.lvl ≠ levelOf a ∧ la0 = some a ∧ la1 = some a ∧ d.counter ≠ 0 ∧ d.last = some false

/-- What a row leaves: the level of `R126`'s first paragraph, the columns "`counter` after" and "`last` after", and `pos`
moved on (R121). -/
def TableRow.after (r : TableRow) (P : Params) (d : DecoderState) (a : Bit) : DecoderState :=
  match r with
  | .unchangedBelowTen => ⟨d.lvl, d.last, min (d.counter + 1) P.cntMax, nextPos P d.pos⟩
  | .unchangedFallback => ⟨d.lvl, some false, 0, nextPos P d.pos⟩
  | .noiseAtStep0 => ⟨d.lvl, d.last, min (d.counter + 1) P.cntMax, nextPos P d.pos⟩
  | .noiseAtStep1 => ⟨d.lvl, d.last, min (d.counter + 2) P.cntMax, nextPos P d.pos⟩
  | .edgeAtZero => ⟨levelOf a, d.last, 0, nextPos P d.pos⟩
  | .edgeFirst => ⟨levelOf a, some true, 0, nextPos P d.pos⟩
  | .edgeEmitsZero => ⟨levelOf a, none, 0, nextPos P d.pos⟩
  | .edgeEmitsOne => ⟨levelOf a, none, 0, nextPos P d.pos⟩

/-- The column "emission". -/
def TableRow.emission (r : TableRow) (d : DecoderState) : Option Emission :=
  match r with
  | .unchangedBelowTen => none
  | .unchangedFallback => none
  | .noiseAtStep0 => none
  | .noiseAtStep1 => none
  | .edgeAtZero => none
  | .edgeFirst => none
  | .edgeEmitsZero => some ⟨false, d.pos⟩
  | .edgeEmitsOne => some ⟨true, d.pos⟩

end Sys2Proof.Machine
end

