-- ==== Sys2Proof/Machine/Reference.lean ====
section
/-! DEFINITION. The list-based reference definitions: `decode` over a whole symbol stream (spec/42_decoder.md R124) and the
pipeline as a pure function of the raw bytes (spec/43_stream_ops.md R147; spec/40_fir.md R95; spec/41_slicer.md R110). -/

namespace Sys2Proof.Machine

/-- Process a symbol list from a decoder state, peeking at the two symbols after each: the last decoder state and the
emissions in order (spec/42_decoder.md R124). -/
def decodeFrom (P : Params) (d : DecoderState) : List Bit → DecoderState × List Emission
  | [] => (d, [])
  | a :: rest =>
    let r := decProcess P d a rest[0]? rest[1]?
    let q := decodeFrom P r.1 rest
    (q.1, r.2.toList ++ q.2)

/-- `decode(s)` (spec/42_decoder.md R124). -/
def decodeSymbols (P : Params) (symbols : List Bit) : List Emission := (decodeFrom P DecoderState.reset symbols).2

/-- The decoder state in which the symbol with index `n` of a list is processed (spec/42_decoder.md R124, R131). -/
def decoderAt (P : Params) (d : DecoderState) : List Bit → Nat → DecoderState
  | [], _ => d
  | _ :: _, 0 => d
  | a :: rest, n + 1 => decoderAt P (decProcess P d a rest[0]? rest[1]?).1 rest n

/-- `x[n - i]` with `x[j] = 0` for `j < 0` (spec/40_fir.md R95). -/
def sampleBack (x : List Bit) (n i : Nat) : Bit := if i ≤ n then x.getD (n - i) false else false

/-- `y[n] = Σ_{i = 0..15} x[n - i] * K[i]` (spec/40_fir.md R95, spec/43_stream_ops.md R147). -/
def filtered (K : Kernel) (x : List Bit) (n : Nat) : Rat :=
  ∑ i : Fin 16, bitValue (sampleBack x n i) * K.coeff i

/-- The symbols of a sample list: `s[m] = SLICE(y[m + SKIP])` for `0 ≤ m < N - SKIP` (spec/41_slicer.md R110,
spec/43_stream_ops.md R147). -/
def symbolsOf (P : Params) (x : List Bit) : List Bit :=
  (List.range (x.length - P.skip)).map fun m => slice P.threshold (filtered P.kernel x (m + P.skip))

/-- `pipeline(P, raw)` (spec/43_stream_ops.md R147). -/
def pipeline (P : Params) (raw : List Byte) : List Emission := decodeSymbols P (symbolsOf P (raw.map sampleOf))

end Sys2Proof.Machine
end

