-- ==== Sys2Proof/Machine/Run.lean ====
section
/-! DEFINITION. What the host sees of a run: a list of command words applied one per step, and the pairs driven, in step
order (spec/43_stream_ops.md R148, spec/70_reset_and_hazards.md R192). -/

namespace Sys2Proof.Machine

/-- The host presents these words in the coming steps. -/
def State.presenting (s : State) (ws : List CmdWord) : State := { s with cmds := ws }

/-- `n` steps: the state after them and the pairs driven, in order. A step that did not answer a next state would end the
run there. -/
def runSteps : Nat → State → State × List Emission
  | 0, s => (s, [])
  | n + 1, s =>
    match step s with
    | .next t => ((runSteps n t).1, t.out.toList ++ (runSteps n t).2)
    | .fault _ => (s, [])
    | .refused _ => (s, [])

/-- Apply a list of command words, one per step. -/
def runWords (s : State) (ws : List CmdWord) : State × List Emission := runSteps ws.length (s.presenting ws)

/-- The state after the words. -/
def stateAfter (s : State) (ws : List CmdWord) : State := (runWords s ws).1

/-- The pairs driven while the words are applied, in step order. -/
def emissionsOf (s : State) (ws : List CmdWord) : List Emission := (runWords s ws).2

end Sys2Proof.Machine
end

