-- ==== Sys2Proof/WellFormed.lean ====
section
/-! DEFINITION. What is well-formed: every operation (spec/30_encoding.md R79), and a parameter record that meets
spec/00_scope.md R7 and R8. -/

namespace Sys2Proof

/-- "No command word is illegal, reserved or a hint" (spec/30_encoding.md R79): the operand field of PUSH and SYM is a byte
by its type and every byte is legal, so there is nothing to refuse. -/
def Instr.wellFormed : Instr → Bool
  | .reset => true
  | .idle => true
  | .push _ => true
  | .sym _ => true
  | .endStream => true

/-- The constraints on `P`: an admissible kernel (spec/00_scope.md R8) and `CNT_MAX ≥ 10` (R7). -/
abbrev Params.WellFormed (P : Params) : Prop :=
  P.kernel.Admissible ∧ Config.cntMaxLeast ≤ P.cntMax

end Sys2Proof
end

