-- ==== Sys2Proof/Safety.lean ====
section
/-! DEFINITION. The terms claims use: which registers agree, and what holds in every state reached from reset
(spec/10_state.md R37, spec/42_decoder.md R129). -/

namespace Sys2Proof.Machine

/-- The two states hold the same registers `S` and the same `P`; only the host's ports may differ. -/
abbrev State.SameRegisters (s t : State) : Prop :=
  s.par = t.par ∧ s.fir = t.fir ∧ s.skipCnt = t.skipCnt ∧ s.winN = t.winN ∧ s.win = t.win ∧ s.dec = t.dec ∧
    s.ended = t.ended

/-- What every reachable state satisfies (spec/10_state.md R37; the ranges of `win_n` and `cursor` are their types). -/
structure State.Inv (s : State) : Prop where
  /-- `P` meets spec/00_scope.md R7 and R8 -/
  params : s.par.WellFormed
  /-- `counter ≤ CNT_MAX` -/
  counter : s.dec.counter ≤ s.par.cntMax
  /-- `skip_cnt ≤ SKIP` -/
  skip : s.skipCnt ≤ s.par.skip
  /-- `pos` fits its `POS_W` bits (spec/10_state.md R25) -/
  pos : ∀ W, s.par.posW = some W → s.dec.pos < 2 ^ W
  /-- `last` is written only once a level is known, so a pending half-bit needs an accepted edge -/
  last : s.dec.lvl = .unknown → s.dec.last = none
  /-- an emission needs an accepted edge -/
  out : s.out ≠ none → s.dec.lvl ≠ .unknown
  /-- while the window is filling nothing has been processed -/
  filling : s.ended = false → s.winN ≠ 2 → s.dec = DecoderState.reset

/-- While outputs are being discarded the decoder has received nothing (spec/10_state.md R37, provided no SYM has been
used). -/
abbrev State.QuietWhileDiscarding (s : State) : Prop :=
  0 < s.skipCnt → s.winN = 0 ∧ s.dec = DecoderState.reset

/-- The reason behind "`counter ≤ 12` whenever `lvl ≠ UNKNOWN`" (spec/42_decoder.md R129 (b)): a count above 9 comes from at
most two failed candidates in a row, and the window shows the symbol that ends them. -/
abbrev State.CounterTight (s : State) : Prop :=
  s.dec.lvl ≠ .unknown →
    s.dec.counter ≤ 9 ∨
    (s.ended = true ∧ s.dec.counter ≤ 12) ∨
    (s.dec.counter ≤ 12 ∧ s.dec.lvl.sees s.win[0] = true) ∨
    (s.dec.counter ≤ 11 ∧ s.dec.lvl.sees s.win[0] = false ∧ s.dec.lvl.sees s.win[1] = true)

end Sys2Proof.Machine
end

