-- ==== Sys2Proof/Certificates/Slice0/Obligations.lean ====
section
/-! DEFINITION. The statements about LH2CORE for the provers. Each docstring names the rule of spec/ it formalises. The hypotheses
`s.ended = false` and `s.ended = true` split R142 to R144 from R146 as the spec does. -/

open Sys2Proof Sys2Proof.Machine

/-! ### Commands and their words -/

/-- spec/30_encoding.md R71, R79, R81: decoding an encoded operation gives it back, with its whole data byte, through the
table's own numbering too; and encoding a decoded word gives a word of the same operation with every significant bit. -/
def Obligations.DecodeAndEncodeAgree : Prop :=
  (∀ i : Instr, i.wellFormed = true → decode (encode i) = i ∧ decodeTableWord 11 (encode i).toNat = some i ∧
      decodeTableWord 16 (encode i).toNat = some i) ∧
    (∀ cw : CmdWord, encode (decode cw) &&& significantBits cw = cw &&& significantBits cw ∧
      decode (encode (decode cw)) = decode cw)

/-- spec/30_encoding.md R71: a word selects the operation whose `(cw AND mask) = match`; exactly one row of the table is
selected by any word, and the operand of PUSH and SYM is `cw[0]`. -/
def Obligations.EveryWordSelectsExactlyOneRow : Prop :=
  opcodeTable = [⟨"RESET", 0x400, 0x400⟩, ⟨"IDLE", 0x000, 0x700⟩, ⟨"PUSH", 0x100, 0x700⟩, ⟨"SYM", 0x200, 0x700⟩,
      ⟨"END", 0x300, 0x700⟩] ∧
    (∀ cw : CmdWord, (opcodeTable.filter fun r => cw &&& r.mask == r.pattern).map OpRow.mnemonic = [(decode cw).mnemonic]) ∧
    (∀ (cw : CmdWord) (data : Byte), decode cw = .push data → sampleOf data = cw.getLsbD 0) ∧
    (∀ (cw : CmdWord) (data : Byte), decode cw = .sym data → symbolOf data = cw.getLsbD 0)

/-- spec/30_encoding.md R81, R82: each well-formed stimulus line stands for exactly the words of the table, a pseudo-operation for that
many copies of its line's word, and each word decodes to the line's operation with its number as data byte. -/
def Obligations.StimulusLinesDecodeAsWritten : Prop :=
  (Line.reset.words = [0x400] ∧ Line.idle.words = [0x000] ∧ Line.endStream.words = [0x300]) ∧
    (decode 0x400 = .reset ∧ decode 0x000 = .idle ∧ decode 0x300 = .endStream) ∧
    (∀ n v : Nat, v ≤ 255 →
      (Line.push v).words.map BitVec.toNat = [0x100 + v] ∧ (Line.push v).words.map decode = [.push (BitVec.ofNat 8 v)] ∧
      (Line.sym v).words.map BitVec.toNat = [0x200 + v] ∧ (Line.sym v).words.map decode = [.sym (BitVec.ofNat 8 v)] ∧
      (Line.run n v).words = (List.replicate n (Line.push v).words).flatten ∧
      (Line.srun n v).words = (List.replicate n (Line.sym v).words).flatten ∧
      (Line.wait n).words = List.replicate n 0x000) ∧
    (∀ first later : List Line, wordsOf (first ++ later) = wordsOf first ++ wordsOf later)

/-- spec/30_encoding.md R71, R79 (sanity): words written out from the table's patterns, ignored bits set and clear. -/
def Obligations.WrittenOutWordsDecode : Prop :=
  decode 0b10000000000 = .reset ∧ decode 0b11111111111 = .reset ∧ decode 0b11100000001 = .reset ∧
    decode 0b00000000000 = .idle ∧ decode 0b00011111111 = .idle ∧
    decode 0b00100000001 = .push 0x01 ∧ decode 0b00111111110 = .push 0xFE ∧
    decode 0b01000000001 = .sym 0x01 ∧ decode 0b01011111110 = .sym 0xFE ∧
    decode 0b01100000000 = .endStream ∧ decode 0b01110101010 = .endStream

/-- spec/30_encoding.md R79, R72, R73: the next state and the output do not depend on the ignored bits: `cw[9:0]` of RESET,
`cw[7:0]` of IDLE and END, `cw[7:1]` of PUSH and SYM. -/
def Obligations.IgnoredBitsHaveNoEffect : Prop :=
  ∀ (s : State) (cw cw' : CmdWord) (rest : List CmdWord),
    (cw.getLsbD 10 = true ∧ cw'.getLsbD 10 = true) ∨
    (cw.extractLsb' 8 3 = cw'.extractLsb' 8 3 ∧ (cw.extractLsb' 8 3 = 0b000 ∨ cw.extractLsb' 8 3 = 0b011)) ∨
    (cw.extractLsb' 8 3 = cw'.extractLsb' 8 3 ∧ cw.getLsbD 0 = cw'.getLsbD 0) →
    step { s with cmds := cw :: rest } = step { s with cmds := cw' :: rest }

/-! ### The step -/

/-- spec/43_stream_ops.md R140: a step decodes the word the host presents and applies its operation, and takes the word;
the word `withFetchWord` stores is the one the next step runs. That a step with nothing presented is IDLE is the model's
reading of R71 (log entry 4). -/
def Obligations.StepRunsTheDecodedOperation : Prop :=
  (∀ (s : State) (cw : CmdWord) (rest : List CmdWord), s.cmds = cw :: rest →
      step s = exec (decode cw) { s with cmds := rest }) ∧
    (∀ s : State, s.cmds = [] → step s = exec .idle s) ∧
    (∀ (s : State) (nbits w : Nat) (i : Instr), decodeTableWord nbits w = some i →
      step (s.withFetchWord nbits w) = exec i { s with cmds := s.cmds.tail })

/-- spec/60_exceptions.md R160: the step gives a next state for every state and every command word, and a run of `n` words
takes `n` steps, so nothing is left presented (that the words wait in a list is the model's choice, log entry 4). -/
def Obligations.EveryStepAnswersANextState : Prop :=
  (∀ (i : Instr) (s : State), ∃ t, exec i s = .next t ∧ t.cmds = s.cmds) ∧
    (∀ s : State, ∃ t, step s = .next t ∧ t.cmds = s.cmds.tail) ∧
    (∀ (s : State) (ws : List CmdWord), (stateAfter s ws).cmds = [] ∧ (emissionsOf s ws).length ≤ ws.length)

/-! ### The five operations -/

/-- spec/43_stream_ops.md R141, spec/10_state.md R36: RESET gives every register the value of the table, whatever the state,
and a word with `cw[10] = 1` is RESET whatever its other bits. `P` and the host's later words stand; no output. The machine
starts in that state. -/
def Obligations.ResetGivesEveryRegisterItsTableValue : Prop :=
  (∀ s : State, exec .reset s = .next
      { par := s.par
        fir := { hist := #v[false, false, false, false, false, false, false, false,
                            false, false, false, false, false, false, false, false], cursor := 0 }
        skipCnt := s.par.skip
        winN := 0
        win := #v[false, false]
        dec := { lvl := .unknown, last := none, counter := 0, pos := 0 }
        ended := false
        cmds := s.cmds
        out := none }) ∧
    (∀ cw : CmdWord, cw.getLsbD 10 = true → decode cw = .reset) ∧
    (∀ s t : State, exec .reset s = .next t → exec .reset t = .next t) ∧
    exec .reset State.reset = .next State.reset

/-- spec/43_stream_ops.md R142: PUSH sends its sample `cw[0]` through the filter, the discard, the slicer and the decoder
within the one step; `Fin` subtraction and addition are modulo 16. -/
def Obligations.PushRunsTheThreeStages : Prop :=
  ∀ (s : State) (data : Byte), s.ended = false →
    let b := data.getLsbD 0
    let fir' : FilterState := { hist := s.fir.hist.set s.fir.cursor b, cursor := s.fir.cursor + 1 }
    let y : Rat := ∑ i : Fin 16, if fir'.slot (s.fir.cursor - i) then s.par.kernel.coeff i else 0
    let s1 : State := { s with fir := fir' }
    (0 < s.skipCnt → exec (.push data) s = .next { s1 with skipCnt := s.skipCnt - 1, out := none }) ∧
    (s.skipCnt = 0 → exec (.push data) s =
      .next { (decAccept s1 (decide (s.par.threshold ≤ y))).1 with out := (decAccept s1 (decide (s.par.threshold ≤ y))).2 })

/-- spec/43_stream_ops.md R143: SYM delivers its symbol `cw[0]` to the decoder; the filter's registers and `skip_cnt` are neither
read nor written. -/
def Obligations.SymDeliversItsSymbol : Prop :=
  (∀ (s : State) (data : Byte), s.ended = false →
    exec (.sym data) s = .next { (decAccept s (data.getLsbD 0)).1 with out := (decAccept s (data.getLsbD 0)).2 }) ∧
  (∀ (s t : State) (data : Byte) (fir' : FilterState) (skip' : Nat), exec (.sym data) s = .next t →
    exec (.sym data) { s with fir := fir', skipCnt := skip' } = .next { t with fir := fir', skipCnt := skip' })

/-- spec/43_stream_ops.md R143, spec/42_decoder.md R122: a kept PUSH does to the decoder exactly what a SYM of its sliced symbol
does. -/
def Obligations.KeptPushActsAsSymOfItsSlice : Prop :=
  ∀ (s t u : State) (data data' : Byte), s.skipCnt = 0 → exec (.push data) s = .next t →
    data'.getLsbD 0 = slice s.par.threshold (firStep s (data.getLsbD 0)).2 → exec (.sym data') s = .next u →
    t = { u with fir := t.fir }

/-- spec/43_stream_ops.md R144, spec/42_decoder.md R123: END processes the 0, 1 or 2 window symbols, the older first, with
absent lookahead, sets `ended`, leaves `lvl` and drives no output; the slots of the window and the filter stand. -/
def Obligations.EndDrainsTheWindowAndCloses : Prop :=
  ∀ s : State, s.ended = false →
    (s.winN = 0 → exec .endStream s = .next { s with ended := true, out := none }) ∧
    (s.winN = 1 → exec .endStream s = .next
      { s with dec := (decProcess s.par s.dec s.win[0] none none).1, winN := 0, ended := true, out := none }) ∧
    (s.winN = 2 → exec .endStream s = .next
      { s with
        dec := (decProcess s.par (decProcess s.par s.dec s.win[0] (some s.win[1]) none).1 s.win[1] none none).1
        winN := 0, ended := true, out := none }) ∧
    (∀ t, exec .endStream s = .next t → t.dec.lvl = s.dec.lvl)

/-- spec/10_state.md R30, spec/43_stream_ops.md R146: `ended` becomes 1 by END, and only RESET makes it 0; while it is 1, PUSH, SYM,
END and IDLE leave every register and drive no output. -/
def Obligations.EndedIsSetByEndAndClearedByReset : Prop :=
  (∀ (s t : State) (i : Instr), exec i s = .next t →
    (t.ended = true ↔ i = .endStream ∨ (s.ended = true ∧ i ≠ .reset))) ∧
  (∀ (s : State) (i : Instr), s.ended = true → i ≠ .reset → exec i s = .next { s with out := none })

/-- spec/20_memory.md R54: a second RESET, and a second END, change nothing more. -/
def Obligations.ResetAndEndAreIdempotent : Prop :=
  (∀ s t : State, exec .reset s = .next t → exec .reset t = .next t) ∧
    (∀ s t : State, exec .endStream s = .next t → exec .endStream t = .next t) ∧
    (∀ s t : State, exec .idle s = .next t → exec .idle t = .next t)

/-! ### What an operation leaves unchanged -/

/-- spec/43_stream_ops.md R142 to R145 (registers written), spec/40_fir.md R90, R91: IDLE, SYM and END leave the filter and
`skip_cnt`; PUSH leaves every slot of the history but the one under the cursor, and `skip_cnt` once it is 0; no operation
changes `P` or takes a word. -/
def Obligations.FrameOfTheFilterSide : Prop :=
  (∀ (s t : State) (data : Byte) (i : Instr), i = .idle ∨ i = .sym data ∨ i = .endStream → exec i s = .next t →
      t.par = s.par ∧ t.cmds = s.cmds ∧ t.fir = s.fir ∧ t.skipCnt = s.skipCnt) ∧
    (∀ (s t : State) (data : Byte), exec (.push data) s = .next t →
      t.par = s.par ∧ t.cmds = s.cmds ∧ (∀ j : Fin 16, j ≠ s.fir.cursor → t.fir.slot j = s.fir.slot j) ∧
      (s.skipCnt = 0 → t.skipCnt = 0))

/-- spec/43_stream_ops.md R142 to R145 (registers written), spec/42_decoder.md R122, R123: a dropped PUSH and IDLE leave the
decoder side whole; PUSH and SYM leave `ended`, and the decoder's four registers while the window is filling; END leaves
the window's slots and `lvl`. -/
def Obligations.FrameOfTheDecoderSide : Prop :=
  (∀ s t : State, exec .idle s = .next t → t.winN = s.winN ∧ t.win = s.win ∧ t.dec = s.dec ∧ t.ended = s.ended) ∧
    (∀ (s t : State) (data : Byte), 0 < s.skipCnt → exec (.push data) s = .next t →
      t.winN = s.winN ∧ t.win = s.win ∧ t.dec = s.dec ∧ t.ended = s.ended) ∧
    (∀ (s t : State) (data : Byte) (i : Instr), i = .push data ∨ i = .sym data → exec i s = .next t →
      t.ended = s.ended ∧ (s.winN ≠ 2 → t.dec = s.dec)) ∧
    (∀ s t : State, exec .endStream s = .next t → t.win = s.win ∧ t.dec.lvl = s.dec.lvl)

/-- spec/00_scope.md R3: no stage feeds back into an earlier stage: what the filter and the discard do does not depend on the
window, the decoder or the output. -/
def Obligations.NoFeedbackIntoTheFilter : Prop :=
  ∀ (s s' t t' : State) (i : Instr), s.par = s'.par → s.fir = s'.fir → s.skipCnt = s'.skipCnt → s.ended = s'.ended →
    exec i s = .next t → exec i s' = .next t' →
    t.fir = t'.fir ∧ t.skipCnt = t'.skipCnt ∧ t.ended = t'.ended

/-! ### The filter -/

/-- spec/40_fir.md R90, R91, R92: with `w` the cursor before the step, the new sample goes into slot `w`, every other slot stands, and
the cursor becomes `(w + 1) mod 16`; nothing else is written; the output is `Σ_{i = 0..15} hist'[(w - i) mod 16] * K[i]` with
`hist'` the history after the write, a history bit standing for 0 or 1. -/
def Obligations.FirStepWritesOneSlotThenSumsTheRing : Prop :=
  ∀ (s : State) (b : Bit),
    (firStep s b).1.fir.slot s.fir.cursor = b ∧
    (∀ j : Fin 16, j ≠ s.fir.cursor → (firStep s b).1.fir.slot j = s.fir.slot j) ∧
    (firStep s b).1.fir.cursor.val = (s.fir.cursor.val + 1) % 16 ∧
    (firStep s b).1 = { s with fir := (firStep s b).1.fir } ∧
    (firStep s b).2 = ∑ i : Fin 16,
      if (firStep s b).1.fir.slot (Fin.ofNat 16 (s.fir.cursor.val + 16 - i.val)) then s.par.kernel.coeff i else 0

/-- spec/10_state.md R22, R21: after `n` samples from reset `cursor = n mod 16`, and the ring holds the last sixteen samples, zeros
standing for those before the first. -/
def Obligations.RingHoldsTheLastSixteenSamples : Prop :=
  ∀ (x : List Bit) (n : Nat), n < x.length + 16 → x.length ≤ n →
    (x.foldl FilterState.push FilterState.reset).cursor.val = x.length % 16 ∧
    (x.foldl FilterState.push FilterState.reset).slot (Fin.ofNat 16 n) =
      if 16 ≤ n then x.getD (n - 16) false else false

/-- spec/40_fir.md R95, R94: from reset the output of the push that supplies `x[n]` is `Σ_{i = 0..15} x[n - i] * K[i]`, with
`x[j] = 0` for `j < 0`. -/
def Obligations.FirOutputIsTheClosedForm : Prop :=
  ∀ (K : Kernel) (x : List Bit) (b : Bit),
    (x.foldl FilterState.push FilterState.reset).output K b =
      ∑ i : Fin 16, if i.val ≤ x.length then (if (x ++ [b]).getD (x.length - i.val) false then K.coeff i else 0) else 0

/-- spec/40_fir.md R96: for a kernel of R8 the same taps applied oldest-first give the same output. -/
def Obligations.OldestFirstReadoutGivesTheSameOutput : Prop :=
  ∀ (K : Kernel) (f : FilterState) (w : Fin 16), K.Admissible →
    firSum K f w = ∑ i : Fin 16, if f.slot (w + 1 + i) then K.coeff i else 0

/-- spec/40_fir.md R97: sixteen ones give the kernel's sum, which is 1 within 1e-9 for a kernel of R8 and exactly 1 for the test
kernels of R9; sixteen zeros give exactly 0; from reset constant ones give the partial sums. -/
def Obligations.DcResponseIsTheKernelSum : Prop :=
  (∀ (K : Kernel) (f : FilterState) (w : Fin 16), (∀ j : Fin 16, f.slot j = true) →
      firSum K f w = ∑ i : Fin 16, K.coeff i ∧ (K.Admissible → |firSum K f w - 1| ≤ 1 / 10 ^ 9)) ∧
    (∀ (K : Kernel) (f : FilterState) (w : Fin 16), (∀ j : Fin 16, f.slot j = false) → firSum K f w = 0) ∧
    (∀ (K : Kernel) (n : Nat), ((List.replicate n true).foldl FilterState.push FilterState.reset).output K true =
      ∑ i : Fin 16, if i.val ≤ n then K.coeff i else 0) ∧
    (∀ K ∈ [Config.kt1, Config.kt2, Config.kt3], K.Admissible ∧ K.gain = 1)

/-- spec/40_fir.md R99: `y` lies between the sum of the negative and the sum of the positive coefficients; with no negative tap
between 0 and the kernel's sum. -/
def Obligations.FirOutputLiesBetweenTheSignedSums : Prop :=
  ∀ (s : State) (b : Bit),
    (∑ i : Fin 16, min (s.par.kernel.coeff i) 0) ≤ (firStep s b).2 ∧ (firStep s b).2 ≤ ∑ i : Fin 16, max (s.par.kernel.coeff i) 0 ∧
    ((∀ i : Fin 16, 0 ≤ s.par.kernel.coeff i) → 0 ≤ (firStep s b).2 ∧ (firStep s b).2 ≤ ∑ i : Fin 16, s.par.kernel.coeff i)

/-! ### The discard and the slicer -/

/-- spec/41_slicer.md R105: while `skip_cnt > 0` the output is dropped and `skip_cnt` goes down by one; at 0 it is kept and nothing
is written. -/
def Obligations.DiscardDropsWhileSkipCountIsPositive : Prop :=
  ∀ s : State,
    (0 < s.skipCnt → discardWarmup s = ({ s with skipCnt := s.skipCnt - 1 }, .dropped)) ∧ (s.skipCnt = 0 → discardWarmup s = (s, .kept))

/-- spec/41_slicer.md R106 (R107 for equality): the symbol is 1 when `y ≥ THRESHOLD` and 0 otherwise; equality gives 1; `THRESHOLD` is
19/20 unless the instance has another value. -/
def Obligations.SliceIsOneFromTheThresholdUp : Prop :=
  (∀ threshold y : Rat, (threshold ≤ y → slice threshold y = true) ∧ (y < threshold → slice threshold y = false)) ∧
    Config.params.threshold = 19 / 20

/-- spec/41_slicer.md R108: the integer comparisons of a fixed-point realisation give the same symbol: `q * Y ≥ p * 2^F` for
`THRESHOLD = p / q`, and `Y ≥ T_INT` with `T_INT = ceil(19 * 2^F / 20)` for 19/20; 244 for `F = 8`. -/
def Obligations.FixedPointSlicerAgrees : Prop :=
  (∀ (p Y : Int) (q F : Nat), 0 < q → slice (p / q) (Y / 2 ^ F) = sliceFixed p q F Y) ∧
    (∀ (Y : Int) (F : Nat), slice (19 / 20) (Y / 2 ^ F) = decide (thresholdInt F ≤ Y)) ∧
    (∀ F : Nat, thresholdInt F = ⌈(19 * 2 ^ F / 20 : Rat)⌉) ∧
    thresholdInt 8 = 244

/-- spec/41_slicer.md R107: with a kernel whose coefficients are multiples of `2^-F` no output equals 19/20; with `KT3` one does. -/
def Obligations.DyadicKernelNeverMeetsTheThreshold : Prop :=
  (∀ (K : Kernel) (F : Nat), (∀ i : Fin 16, ∃ k : Int, K.coeff i = k / 2 ^ F) → ∀ (f : FilterState) (w : Fin 16),
      firSum K f w ≠ (Config.paramsWith K).threshold) ∧
    (∃ (f : FilterState) (w : Fin 16), firSum Config.kt3 f w = (Config.paramsWith Config.kt3).threshold)

/-! ### The decoder, one symbol -/

/-- spec/42_decoder.md R116: a symbol equal to the level counts one more with saturation; when the count reaches 10 it is cleared
and `last` forced to `some 0`; the lookahead is not looked at and nothing is emitted. -/
def Obligations.UnchangedSymbolCountsOrFallsBack : Prop :=
  ∀ (P : Params) (d : DecoderState) (a : Bit) (la0 la1 : Option Bit),
    (d.lvl = .l0 ∧ a = false) ∨ (d.lvl = .l1 ∧ a = true) →
    (10 ≤ min (d.counter + 1) P.cntMax →
      decProcess P d a la0 la1 = ({ d with counter := 0, last := some false, pos := nextPos P d.pos }, none)) ∧
    (min (d.counter + 1) P.cntMax < 10 →
      decProcess P d a la0 la1 = ({ d with counter := min (d.counter + 1) P.cntMax, pos := nextPos P d.pos }, none))

/-- spec/42_decoder.md R118 (R117 for the two steps): a candidate that fails at lookahead step 0 counts one more and one that
fails at step 1 two more; an absent lookahead symbol is a mismatch; `lvl` and `last` stand, nothing is emitted and 10 is
not tested. -/
def Obligations.FailedCandidateCountsAsNoise : Prop :=
  ∀ (P : Params) (d : DecoderState) (a : Bit) (la0 la1 : Option Bit),
    ¬((d.lvl = .l0 ∧ a = false) ∨ (d.lvl = .l1 ∧ a = true)) →
    (la0 ≠ some a →
      decProcess P d a la0 la1 = ({ d with counter := min (d.counter + 1) P.cntMax, pos := nextPos P d.pos }, none)) ∧
    (la0 = some a → la1 ≠ some a →
      decProcess P d a la0 la1 = ({ d with counter := min (d.counter + 2) P.cntMax, pos := nextPos P d.pos }, none))

/-- spec/42_decoder.md R119, R120: a candidate confirmed by both lookahead symbols is adopted as the level; with `counter = 0`
nothing else changes, otherwise the counter is cleared and `last` selects the emission and its own next value. -/
def Obligations.AcceptedEdgeResolvesThePendingHalfBit : Prop :=
  ∀ (P : Params) (d : DecoderState) (a : Bit), ¬((d.lvl = .l0 ∧ a = false) ∨ (d.lvl = .l1 ∧ a = true)) →
    let d' : DecoderState := { d with lvl := (if a then .l1 else .l0), pos := nextPos P d.pos }
    (d.counter = 0 → decProcess P d a (some a) (some a) = (d', none)) ∧
    (d.counter ≠ 0 →
      (d.last = some false → decProcess P d a (some a) (some a) = ({ d' with counter := 0, last := none }, some ⟨true, d.pos⟩)) ∧
      (d.last = some true → decProcess P d a (some a) (some a) = ({ d' with counter := 0, last := none }, some ⟨false, d.pos⟩)) ∧
      (d.last = none → decProcess P d a (some a) (some a) = ({ d' with counter := 0, last := some true }, none)))

/-- spec/42_decoder.md R121, spec/10_state.md R25: every call, whatever branch it takes, ends with `pos` moved on by one, modulo
`2^POS_W` or unbounded; so the `k`-th symbol of a stream is processed with `pos = k` in that sense. -/
def Obligations.EveryCallMovesThePositionByOne : Prop :=
  (∀ (P : Params) (d : DecoderState) (a : Bit) (la0 la1 : Option Bit),
    (∀ W, P.posW = some W → (decProcess P d a la0 la1).1.pos = (d.pos + 1) % 2 ^ W) ∧
    (P.posW = none → (decProcess P d a la0 la1).1.pos = d.pos + 1)) ∧
  (∀ (P : Params) (symbols : List Bit) (k : Nat), k ≤ symbols.length →
    (∀ W, P.posW = some W → (decoderAt P DecoderState.reset symbols k).pos = k % 2 ^ W) ∧
    (P.posW = none → (decoderAt P DecoderState.reset symbols k).pos = k))

/-- spec/42_decoder.md R126: the eight rows of the table are exhaustive and mutually exclusive, and the row that applies says what
the algorithm of R115 leaves in every register and what it emits. -/
def Obligations.DecoderFollowsItsTable : Prop :=
  ∀ (P : Params) (d : DecoderState) (a : Bit) (la0 la1 : Option Bit),
    ∃ r : TableRow, r.Applies P d a la0 la1 ∧ (∀ r' : TableRow, r'.Applies P d a la0 la1 → r' = r) ∧
      decProcess P d a la0 la1 = (r.after P d a, r.emission d)

/-- spec/42_decoder.md R120, R117, R127: a call emits `(bit, p)` exactly when the candidate is confirmed by two equal symbols, the
counter is not 0, `last` holds the other bit, and `p` is the candidate's own position. -/
def Obligations.EmissionNeedsConfirmedEdgeAndPendingBit : Prop :=
  ∀ (P : Params) (d : DecoderState) (a : Bit) (la0 la1 : Option Bit) (e : Emission),
    (decProcess P d a la0 la1).2 = some e ↔
      d.lvl ≠ levelOf a ∧ la0 = some a ∧ la1 = some a ∧ d.counter ≠ 0 ∧ d.last = some (!e.bit) ∧ e.position = d.pos

/-- spec/10_state.md R27, spec/42_decoder.md R126: only RESET gives UNKNOWN again, END never changes the level, and an operation
that changes it sets it to the window's older symbol, which the newer one and the one delivered confirm. -/
def Obligations.LevelChangesOnlyByConfirmedEdgeOrReset : Prop :=
  ∀ (s t : State) (i : Instr), exec i s = .next t → i ≠ .reset → t.dec.lvl ≠ s.dec.lvl →
    (∃ data, i = .push data ∨ i = .sym data) ∧ s.ended = false ∧ s.winN = 2 ∧ s.win[1] = s.win[0] ∧ t.win[1] = s.win[0] ∧
      t.dec.lvl = levelOf s.win[0]

/-! ### The window -/

/-- spec/42_decoder.md R122: a window that is not full takes the symbol in its first free slot and nothing is processed; a full one
processes its older symbol with the newer and the delivered one as lookahead, and moves up. -/
def Obligations.DeliveredSymbolsFillTheWindowThenAreProcessed : Prop :=
  ∀ (s : State) (b : Bit),
    (s.winN = 0 → decAccept s b = ({ s with win := #v[b, s.win[1]], winN := 1 }, none)) ∧
    (s.winN = 1 → decAccept s b = ({ s with win := #v[s.win[0], b], winN := 2 }, none)) ∧
    (s.winN = 2 →
      let r := decProcess s.par s.dec s.win[0] (some s.win[1]) (some b)
      decAccept s b = ({ s with dec := r.1, win := #v[s.win[1], b] }, r.2))

/-- spec/42_decoder.md R123: draining processes the symbols still held, the older first, with what is missing absent; it empties the
window and never emits. -/
def Obligations.DrainProcessesTheWindowAndNeverEmits : Prop :=
  ∀ s : State,
    (decDrain s).2 = [] ∧
    (s.winN = 2 →
      let r1 := decProcess s.par s.dec s.win[0] (some s.win[1]) none
      let r2 := decProcess s.par r1.1 s.win[1] none none
      r1.2 = none ∧ r2.2 = none ∧ (decDrain s).1 = { s with dec := r2.1, winN := 0 }) ∧
    (s.winN = 1 →
      let r1 := decProcess s.par s.dec s.win[0] none none
      r1.2 = none ∧ (decDrain s).1 = { s with dec := r1.1, winN := 0 }) ∧
    (s.winN = 0 → (decDrain s).1 = s)

/-! ### The decoder over a stream -/

/-- spec/42_decoder.md R127: inverting every symbol of a stream changes no emission. -/
def Obligations.DecoderIsBlindToPolarity : Prop :=
  ∀ (P : Params) (symbols : List Bit), decodeSymbols P (symbols.map (!·)) = decodeSymbols P symbols

/-- spec/42_decoder.md R129 (d), spec/10_state.md R29: counters that saturate at any two limits of at least 10, however large, give the
same emissions and the same final `lvl`, `last` and `pos`. -/
def Obligations.SaturationLimitIsUnobservable : Prop :=
  ∀ (P Q : Params) (symbols : List Bit), P.posW = Q.posW → 10 ≤ P.cntMax → 10 ≤ Q.cntMax →
    decodeSymbols P symbols = decodeSymbols Q symbols ∧
    (decodeFrom P DecoderState.reset symbols).1.lvl = (decodeFrom Q DecoderState.reset symbols).1.lvl ∧
    (decodeFrom P DecoderState.reset symbols).1.last = (decodeFrom Q DecoderState.reset symbols).1.last ∧
    (decodeFrom P DecoderState.reset symbols).1.pos = (decodeFrom Q DecoderState.reset symbols).1.pos

/-- spec/42_decoder.md R130 (R133 for the range in which positions do not wrap): two emissions are at least 3 positions apart while no
more than `2^POS_W` symbols are processed; always with `POS_W = ∞`. -/
def Obligations.EmissionsAreThreePositionsApart : Prop :=
  ∀ (P : Params) (symbols : List Bit), (∀ W, P.posW = some W → symbols.length ≤ 2 ^ W) →
    (decodeSymbols P symbols).Pairwise fun e f => e.position + 3 ≤ f.position

/-- spec/42_decoder.md R133: positions strictly increase while no more than `2^POS_W` symbols are processed; always with
`POS_W = ∞`. -/
def Obligations.PositionsStrictlyIncrease : Prop :=
  ∀ (P : Params) (symbols : List Bit), (∀ W, P.posW = some W → symbols.length ≤ 2 ^ W) →
    (decodeSymbols P symbols).Pairwise fun e f => e.position < f.position

/-- spec/43_stream_ops.md R150, spec/42_decoder.md R130: a stream of `M` symbols has at most a third of `M - 2` emissions, rounded up,
that is at most `M / 3`. -/
def Obligations.AtMostOneEmissionPerThreeSymbols : Prop :=
  ∀ (P : Params) (symbols : List Bit), 3 * (decodeSymbols P symbols).length ≤ symbols.length

/-- spec/42_decoder.md R131: flipping the symbol at `g` of a stream, where the three symbols before it and the one after it equal
it, changes neither the emissions nor the final state, unless the unflipped symbol fires the fallback. -/
def Obligations.SingleGlitchInsideARunIsInvisible : Prop :=
  ∀ (P : Params) (symbols : List Bit) (v : Bit) (g : Nat), 3 ≤ g → g + 1 < symbols.length →
    (∀ j, g ≤ j + 3 → j ≤ g + 1 → symbols[j]? = some v) →
    min ((decoderAt P DecoderState.reset symbols g).counter + 1) P.cntMax < 10 →
    decodeFrom P DecoderState.reset (symbols.set g (!v)) = decodeFrom P DecoderState.reset symbols

/-- spec/42_decoder.md R128 (b), (c), (d): from a state just after an accepted edge, what the edge at the end of a run of
`r ≥ 3` symbols does: nothing but the level for `r = 11, 21, ...`; bit 1 for a longer run of at least 12; for a short run
the pending half-bit decides. The emission carries the position of the first symbol of the next run. -/
def Obligations.CleanRunDecidesItsEdge : Prop :=
  ∀ (P : Params) (d : DecoderState) (v : Bit) (r : Nat) (rest : List Bit), 10 ≤ P.cntMax → d.lvl = levelOf v → d.counter = 0 →
    3 ≤ r →
    let p := (nextPos P)^[r - 1] d.pos
    let pending : Option Bit := if 11 ≤ r then some false else d.last
    let silent := r % 10 = 1
    let last' : Option Bit := if silent then pending else if pending = none then some true else none
    let emitted : List Emission := if silent then [] else pending.toList.map fun b => ⟨!b, p⟩
    let after : DecoderState := { lvl := levelOf (!v), last := last', counter := 0, pos := nextPos P p }
    decodeFrom P d (List.replicate (r - 1) v ++ (!v) :: (!v) :: (!v) :: rest) =
      ((decodeFrom P after ((!v) :: (!v) :: rest)).1, emitted ++ (decodeFrom P after ((!v) :: (!v) :: rest)).2)

/-- spec/42_decoder.md R132, R129 (a): symbols that stay at the level make the fallback fire at every tenth of them; each firing
clears `counter` and forces `last = some 0`; nothing is emitted and decoding goes on with what follows. -/
def Obligations.ConstantLevelFiresTheFallbackEveryTenthSymbol : Prop :=
  ∀ (P : Params) (d : DecoderState) (v : Bit) (n : Nat) (rest : List Bit), 10 ≤ P.cntMax → d.lvl = levelOf v → d.counter < 10 →
    decodeFrom P d (List.replicate n v ++ rest) =
      decodeFrom P { d with
        counter := (d.counter + n) % 10
        last := if 10 ≤ d.counter + n then some false else d.last
        pos := (nextPos P)^[n] d.pos } rest

/-! ### The streaming form against the reference definitions -/

/-- spec/42_decoder.md R125: delivering symbols one per step and then END performs the calls of the list-based definition: the same
emissions in the same order, and the same final `lvl`, `last`, `counter` and `pos`; from any open state with an empty
window, the reset state among them. -/
def Obligations.StreamingDecoderMatchesTheReference : Prop :=
  ∀ (s : State) (symbols : List Byte), s.ended = false → s.winN = 0 →
    emissionsOf s (symbols.map (fun b => encode (.sym b)) ++ [encode .endStream]) =
      (decodeFrom s.par s.dec (symbols.map symbolOf)).2 ∧
    (stateAfter s (symbols.map (fun b => encode (.sym b)) ++ [encode .endStream])).dec =
      (decodeFrom s.par s.dec (symbols.map symbolOf)).1

/-- spec/43_stream_ops.md R148, R147: from reset, PUSH of each raw byte and then END, with any number of IDLE steps inserted anywhere,
drives exactly `pipeline(P, raw)`; likewise SYM of each symbol and END drives `decode(s)`. -/
def Obligations.PushedStreamDrivesThePipeline : Prop :=
  (∀ (P : Params) (raw : List Byte) (ws : List CmdWord),
    (ws.filter fun cw => decode cw != .idle) = raw.map (fun b => encode (.push b)) ++ [encode .endStream] →
    emissionsOf (State.resetOf P) ws = pipeline P raw) ∧
  (∀ (P : Params) (symbols : List Byte) (ws : List CmdWord),
    (ws.filter fun cw => decode cw != .idle) = symbols.map (fun b => encode (.sym b)) ++ [encode .endStream] →
    emissionsOf (State.resetOf P) ws = decodeSymbols P (symbols.map symbolOf))

/-- spec/43_stream_ops.md R149: an emission appears in the PUSH or SYM that delivers the second symbol after the candidate, and carries
the candidate's position; END and IDLE never emit. -/
def Obligations.EmissionAppearsTwoSymbolsLater : Prop :=
  ∀ (s t : State) (i : Instr) (e : Emission), exec i s = .next t → t.out = some e →
    (∃ data, i = .push data ∨ i = .sym data) ∧ s.ended = false ∧ s.winN = 2 ∧ e.position = s.dec.pos ∧
      s.win[1] = s.win[0] ∧ t.win[1] = s.win[0] ∧ t.dec.pos = nextPos s.par e.position

/-- spec/43_stream_ops.md R150, spec/41_slicer.md R105, R110, spec/10_state.md R25: after `N` PUSHes from reset `skip_cnt` is
`SKIP - N` stopping at 0, the decoder has been delivered `N - SKIP` symbols of which it holds at most two and has processed the
others, counted by `pos` modulo `2^POS_W` or unbounded, and `cursor = N mod 16`. -/
def Obligations.PushCountsOfEveryRegister : Prop :=
  ∀ (P : Params) (raw : List Byte),
    let t := stateAfter (State.resetOf P) (raw.map fun b => encode (.push b))
    t.skipCnt = P.skip - raw.length ∧ t.winN.val = min 2 (raw.length - P.skip) ∧ t.fir.cursor.val = raw.length % 16 ∧
      (∀ W, P.posW = some W → t.dec.pos = (raw.length - P.skip - 2) % 2 ^ W) ∧
      (P.posW = none → t.dec.pos = raw.length - P.skip - 2)

/-- spec/43_stream_ops.md R145: IDLE leaves every register and drives no output, so IDLE steps inserted anywhere change no later
register and no emission. -/
def Obligations.IdleChangesNothingAndMayBeInsertedAnywhere : Prop :=
  (∀ s : State, exec .idle s = .next { s with out := none }) ∧
  (∀ (s : State) (ws : List CmdWord),
    State.SameRegisters (stateAfter s ws) (stateAfter s (ws.filter fun cw => decode cw != .idle)) ∧
    emissionsOf s ws = emissionsOf s (ws.filter fun cw => decode cw != .idle))

/-- spec/43_stream_ops.md R146, spec/70_reset_and_hazards.md R192: after END, any words but RESET leave every register and drive nothing. -/
def Obligations.EndedStreamStaysSilent : Prop :=
  ∀ (s : State) (ws : List CmdWord), s.ended = true → (∀ cw ∈ ws, decode cw ≠ .reset) →
    State.SameRegisters (stateAfter s ws) s ∧ emissionsOf s ws = []

/-- spec/43_stream_ops.md R141: what follows a RESET does not depend on anything before it but `P`. -/
def Obligations.ResetForgetsEverythingButTheParameters : Prop :=
  ∀ (s s' : State) (cw : CmdWord) (ws : List CmdWord), s.par = s'.par → decode cw = .reset →
    stateAfter s (cw :: ws) = stateAfter s' (cw :: ws) ∧ emissionsOf s (cw :: ws) = emissionsOf s' (cw :: ws)

/-! ### Invariants -/

/-- spec/10_state.md R36, R37: the state after reset satisfies the invariant, for the machine's own parameters and for any that meet
R7 and R8. -/
def Obligations.ResetStateSatisfiesTheInvariant : Prop :=
  State.reset.Inv ∧ ∀ P : Params, P.WellFormed → (State.resetOf P).Inv

/-- spec/10_state.md R37, R25, R27, R28: every step keeps the invariant: the counts within their limits, `pos` within its width, no
pending half-bit and no emission before an accepted edge, nothing processed while the window fills. -/
def Obligations.EveryStepKeepsTheInvariant : Prop :=
  ∀ s t : State, s.Inv → step s = .next t → t.Inv

/-- spec/10_state.md R37: while outputs are being discarded the decoder has received nothing; every operation but SYM keeps that, and
it holds after reset. -/
def Obligations.DecoderIsQuietWhileDiscarding : Prop :=
  (∀ P : Params, (State.resetOf P).QuietWhileDiscarding) ∧
    (∀ (s t : State) (i : Instr), s.QuietWhileDiscarding → (∀ data, i ≠ .sym data) → exec i s = .next t → t.QuietWhileDiscarding)

/-- spec/42_decoder.md R129 (a), (b): `counter ≤ 12` whenever the level is known: the bound's reason holds after reset, every step from
a state of the invariant keeps it, and it gives the bound. -/
def Obligations.CounterStaysBelowThirteenOnceTheLevelIsKnown : Prop :=
  (∀ P : Params, (State.resetOf P).CounterTight) ∧
    (∀ s t : State, s.Inv → s.CounterTight → step s = .next t → t.CounterTight) ∧
    (∀ s : State, s.CounterTight → s.dec.lvl ≠ .unknown → s.dec.counter ≤ 12)

/-- spec/10_state.md R33, spec/00_scope.md R7: no step, and so no run, changes any field of `P` (that State
carries `P` is the model's choice, log entry 1). -/
def Obligations.NoRunChangesTheParameters : Prop :=
  (∀ s t : State, step s = .next t → t.par = s.par) ∧ ∀ (s : State) (ws : List CmdWord), (stateAfter s ws).par = s.par

/-! ### Ports -/

/-- spec/30_encoding.md R76: the fields of the output word: `out_valid` is bit `POS_W + 1`, `out_bit` is bit `POS_W`, `out_pos` the bits
below; with no emission the whole word is 0. -/
def Obligations.OutputWordHoldsItsFields : Prop :=
  (∀ W : Nat, outWord W none = 0) ∧
    (∀ (W : Nat) (e : Emission), e.position < 2 ^ W →
      (outWord W (some e)).getLsbD (W + 1) = true ∧ (outWord W (some e)).getLsbD W = e.bit ∧
      (outWord W (some e)).toNat % 2 ^ W = e.position)

/-- spec/30_encoding.md R78: the 2-bit codes of `lvl` and `last` are as listed, tell the values apart, and never use `0b10` for
`lvl` or `0b01` for `last`. -/
def Obligations.RegisterCodesAreAsListed : Prop :=
  Level.code .l0 = 0b00 ∧ Level.code .l1 = 0b01 ∧ Level.code .unknown = 0b11 ∧ (∀ l : Level, l.code ≠ 0b10) ∧
    lastCode none = 0b00 ∧ lastCode (some false) = 0b10 ∧ lastCode (some true) = 0b11 ∧ (∀ o : Option Bit, lastCode o ≠ 0b01) ∧
    (∀ l m : Level, l.code = m.code → l = m) ∧ (∀ o q : Option Bit, lastCode o = lastCode q → o = q)
end

