-- ==== Sys2Proof/Laws/State.lean ====
section
/-! SUPPORT. What each named update of State does to each field, true by unfolding: the project's simp set over records. -/

namespace Sys2Proof.Machine

variable (s : State) (e : Option Emission) (P : Params) (ws : List CmdWord)


@[simp] theorem State.drive_par : (s.drive e).par = s.par := rfl
@[simp] theorem State.drive_fir : (s.drive e).fir = s.fir := rfl
@[simp] theorem State.drive_skipCnt : (s.drive e).skipCnt = s.skipCnt := rfl
@[simp] theorem State.drive_winN : (s.drive e).winN = s.winN := rfl
@[simp] theorem State.drive_win : (s.drive e).win = s.win := rfl
@[simp] theorem State.drive_dec : (s.drive e).dec = s.dec := rfl
@[simp] theorem State.drive_ended : (s.drive e).ended = s.ended := rfl
@[simp] theorem State.drive_cmds : (s.drive e).cmds = s.cmds := rfl
@[simp] theorem State.drive_out : (s.drive e).out = e := rfl

@[simp] theorem State.resetOf_par : (State.resetOf P).par = P := rfl
@[simp] theorem State.resetOf_fir : (State.resetOf P).fir = FilterState.reset := rfl
@[simp] theorem State.resetOf_skipCnt : (State.resetOf P).skipCnt = P.skip := rfl
@[simp] theorem State.resetOf_winN : (State.resetOf P).winN = 0 := rfl
@[simp] theorem State.resetOf_win : (State.resetOf P).win = #v[false, false] := rfl
@[simp] theorem State.resetOf_dec : (State.resetOf P).dec = DecoderState.reset := rfl
@[simp] theorem State.resetOf_ended : (State.resetOf P).ended = false := rfl
@[simp] theorem State.resetOf_cmds : (State.resetOf P).cmds = [] := rfl
@[simp] theorem State.resetOf_out : (State.resetOf P).out = none := rfl

@[simp] theorem State.toReset_par : s.toReset.par = s.par := rfl
@[simp] theorem State.toReset_fir : s.toReset.fir = FilterState.reset := rfl
@[simp] theorem State.toReset_skipCnt : s.toReset.skipCnt = s.par.skip := rfl
@[simp] theorem State.toReset_winN : s.toReset.winN = 0 := rfl
@[simp] theorem State.toReset_win : s.toReset.win = #v[false, false] := rfl
@[simp] theorem State.toReset_dec : s.toReset.dec = DecoderState.reset := rfl
@[simp] theorem State.toReset_ended : s.toReset.ended = false := rfl
@[simp] theorem State.toReset_cmds : s.toReset.cmds = s.cmds := rfl
@[simp] theorem State.toReset_out : s.toReset.out = none := rfl

@[simp] theorem State.presenting_par : (s.presenting ws).par = s.par := rfl
@[simp] theorem State.presenting_fir : (s.presenting ws).fir = s.fir := rfl
@[simp] theorem State.presenting_skipCnt : (s.presenting ws).skipCnt = s.skipCnt := rfl
@[simp] theorem State.presenting_winN : (s.presenting ws).winN = s.winN := rfl
@[simp] theorem State.presenting_win : (s.presenting ws).win = s.win := rfl
@[simp] theorem State.presenting_dec : (s.presenting ws).dec = s.dec := rfl
@[simp] theorem State.presenting_ended : (s.presenting ws).ended = s.ended := rfl
@[simp] theorem State.presenting_cmds : (s.presenting ws).cmds = ws := rfl
@[simp] theorem State.presenting_out : (s.presenting ws).out = s.out := rfl

@[simp] theorem firStep_state_par (b : Bit) : (firStep s b).1.par = s.par := rfl
@[simp] theorem firStep_state_fir (b : Bit) : (firStep s b).1.fir = s.fir.push b := rfl
@[simp] theorem firStep_state_skipCnt (b : Bit) : (firStep s b).1.skipCnt = s.skipCnt := rfl
@[simp] theorem firStep_state_winN (b : Bit) : (firStep s b).1.winN = s.winN := rfl
@[simp] theorem firStep_state_win (b : Bit) : (firStep s b).1.win = s.win := rfl
@[simp] theorem firStep_state_dec (b : Bit) : (firStep s b).1.dec = s.dec := rfl
@[simp] theorem firStep_state_ended (b : Bit) : (firStep s b).1.ended = s.ended := rfl
@[simp] theorem firStep_state_cmds (b : Bit) : (firStep s b).1.cmds = s.cmds := rfl
@[simp] theorem firStep_state_out (b : Bit) : (firStep s b).1.out = s.out := rfl

@[simp] theorem firStep_output (b : Bit) : (firStep s b).2 = s.fir.output s.par.kernel b := rfl

@[simp] theorem DecoderState.reset_lvl : DecoderState.reset.lvl = .unknown := rfl
@[simp] theorem DecoderState.reset_last : DecoderState.reset.last = none := rfl
@[simp] theorem DecoderState.reset_counter : DecoderState.reset.counter = 0 := rfl
@[simp] theorem DecoderState.reset_pos : DecoderState.reset.pos = 0 := rfl
@[simp] theorem FilterState.reset_cursor : FilterState.reset.cursor = 0 := rfl

@[simp] theorem FilterState.reset_slot (j : Fin 16) : FilterState.reset.slot j = false := by
  simp [FilterState.reset, FilterState.slot]

/-- A step while the stream is ended only drives no output. -/
theorem State.unlessEnded_of_ended (s t : State) (h : s.ended = true) : s.unlessEnded t = s.drive none := by
  simp [State.unlessEnded, h]

/-- A step while the stream is open has its effect. -/
theorem State.unlessEnded_of_open (s t : State) (h : s.ended = false) : s.unlessEnded t = t := by
  simp [State.unlessEnded, h]

/-- Fetching changes nothing but the words still to come. -/
theorem State.fetch_registers (s : State) : s.fetch.2 = { s with cmds := s.cmds.tail } := by
  cases s
  unfold State.fetch
  split <;> simp_all

end Sys2Proof.Machine
end

