-- ==== Sys2Proof/Laws/Decoder.lean ====
section
/-! SUPPORT. Everything a call of the decoder can do (spec/42_decoder.md). -/

namespace Sys2Proof.Machine

theorem satAdd_eq (P : Params) (c n : Nat) : satAdd P c n = min (c + n) P.cntMax := rfl

theorem satAdd_le (P : Params) (c n : Nat) : satAdd P c n ≤ P.cntMax := Nat.min_le_right _ _

theorem satAdd_le_add (P : Params) (c n : Nat) : satAdd P c n ≤ c + n := Nat.min_le_left _ _

theorem nextPos_lt (P : Params) (pos W : Nat) (h : P.posW = some W) : nextPos P pos < 2 ^ W := by
  simp [nextPos, h, Nat.mod_lt]

@[simp] theorem Level.unknown_sees (a : Bit) : Level.unknown.sees a = false := rfl

/-- The level an accepted symbol names sees that symbol and no other. -/
@[simp] theorem levelOf_sees (a b : Bit) : (levelOf a).sees b = (b == a) := by
  cases a <;> cases b <;> rfl

theorem levelOf_ne_unknown (a : Bit) : levelOf a ≠ .unknown := by cases a <;> decide

/-- A known level sees exactly one of the two symbols. -/
theorem Level.sees_not (l : Level) (a : Bit) (h : l ≠ .unknown) : l.sees (!a) = !(l.sees a) := by
  cases l <;> cases a <;> simp_all [Level.sees]

@[simp] theorem confirms_none (a : Bit) : confirms none a = false := rfl
@[simp] theorem confirms_some (a b : Bit) : confirms (some b) a = (b == a) := by
  cases a <;> cases b <;> rfl

/-- "Symbol equals `lvl`" is equality with the level the symbol names. -/
theorem Level.sees_iff (l : Level) (a : Bit) : l.sees a = true ↔ l = levelOf a := by
  cases l <;> cases a <;> decide

theorem Level.sees_eq_false_iff (l : Level) (a : Bit) : l.sees a = false ↔ l ≠ levelOf a := by
  cases l <;> cases a <;> decide

theorem confirms_iff (la : Option Bit) (a : Bit) : confirms la a = true ↔ la = some a := by simp [confirms]

theorem confirms_eq_false_iff (la : Option Bit) (a : Bit) : confirms la a = false ↔ la ≠ some a := by simp [confirms]

theorem fallbackDue_iff (c : Nat) : fallbackDue c = true ↔ 10 ≤ c := by simp [fallbackDue]

theorem fallbackDue_eq_false_iff (c : Nat) : fallbackDue c = false ↔ c < 10 := by simp [fallbackDue]

/-- An unchanged symbol below the limit only counts. -/
theorem DecoderState.unchanged_of_lt (P : Params) (d : DecoderState) (h : satAdd P d.counter 1 < 10) :
    d.unchanged P = { d with counter := satAdd P d.counter 1 } := by
  simp [DecoderState.unchanged, (fallbackDue_eq_false_iff _).2 h]

/-- An unchanged symbol at the limit clears the count and forces the pending half-bit. -/
theorem DecoderState.unchanged_of_le (P : Params) (d : DecoderState) (h : 10 ≤ satAdd P d.counter 1) :
    d.unchanged P = { d with counter := 0, last := some false } := by
  simp [DecoderState.unchanged, (fallbackDue_iff _).2 h]

/-- A call on a symbol the level sees. -/
theorem decProcess_of_sees (P : Params) (d : DecoderState) (a : Bit) (la0 la1 : Option Bit) (h : d.lvl.sees a = true) :
    decProcess P d a la0 la1 = ((d.unchanged P).advance P, none) := by
  simp [decProcess, decCase, h]

/-- A call on a candidate that fails at lookahead step 0. -/
theorem decProcess_of_fail_first (P : Params) (d : DecoderState) (a : Bit) (la0 la1 : Option Bit)
    (h : d.lvl.sees a = false) (h0 : la0 ≠ some a) : decProcess P d a la0 la1 = ((d.noise P 1).advance P, none) := by
  simp [decProcess, decCase, h, (confirms_eq_false_iff _ _).2 h0]

/-- A call on a candidate that fails at lookahead step 1. -/
theorem decProcess_of_fail_second (P : Params) (d : DecoderState) (a : Bit) (la1 : Option Bit)
    (h : d.lvl.sees a = false) (h1 : la1 ≠ some a) :
    decProcess P d a (some a) la1 = ((d.noise P 2).advance P, none) := by
  simp [decProcess, decCase, h, (confirms_eq_false_iff _ _).2 h1]

/-- A call on a confirmed candidate. -/
theorem decProcess_of_edge (P : Params) (d : DecoderState) (a : Bit) (h : d.lvl.sees a = false) :
    decProcess P d a (some a) (some a) = ((d.acceptEdge a).1.advance P, (d.acceptEdge a).2) := by
  simp [decProcess, decCase, h]

@[simp] theorem decProcess_lvl (P : Params) (d : DecoderState) (a : Bit) (la0 la1 : Option Bit) :
    (decProcess P d a la0 la1).1.lvl = (decCase P d a la0 la1).1.lvl := rfl
@[simp] theorem decProcess_last (P : Params) (d : DecoderState) (a : Bit) (la0 la1 : Option Bit) :
    (decProcess P d a la0 la1).1.last = (decCase P d a la0 la1).1.last := rfl
@[simp] theorem decProcess_counter (P : Params) (d : DecoderState) (a : Bit) (la0 la1 : Option Bit) :
    (decProcess P d a la0 la1).1.counter = (decCase P d a la0 la1).1.counter := rfl

/-- The four ways a call goes, each with the condition under which it goes that way. -/
theorem decCase_cases (P : Params) (d : DecoderState) (a : Bit) (la0 la1 : Option Bit) :
    (d.lvl.sees a = true ∧ decCase P d a la0 la1 = (d.unchanged P, none)) ∨
    (d.lvl.sees a = false ∧ confirms la0 a = false ∧ decCase P d a la0 la1 = (d.noise P 1, none)) ∨
    (d.lvl.sees a = false ∧ confirms la0 a = true ∧ confirms la1 a = false ∧
      decCase P d a la0 la1 = (d.noise P 2, none)) ∨
    (d.lvl.sees a = false ∧ confirms la0 a = true ∧ confirms la1 a = true ∧
      decCase P d a la0 la1 = d.acceptEdge a) := by
  unfold decCase
  cases d.lvl.sees a <;> cases confirms la0 a <;> cases confirms la1 a <;> simp

/-- What an accepted edge leaves of each register, and what it emits. -/
theorem DecoderState.acceptEdge_lvl (d : DecoderState) (a : Bit) : (d.acceptEdge a).1.lvl = levelOf a := by
  simp only [DecoderState.acceptEdge, DecoderState.resolve]
  repeat' split
  all_goals rfl

theorem DecoderState.acceptEdge_counter (d : DecoderState) (a : Bit) : (d.acceptEdge a).1.counter = 0 := by
  simp only [DecoderState.acceptEdge, DecoderState.resolve]
  repeat' split
  all_goals first | assumption | rfl

theorem DecoderState.acceptEdge_pos (d : DecoderState) (a : Bit) : (d.acceptEdge a).1.pos = d.pos := by
  simp only [DecoderState.acceptEdge, DecoderState.resolve]
  repeat' split
  all_goals rfl

theorem DecoderState.acceptEdge_position (d : DecoderState) (a : Bit) (e : Emission)
    (h : (d.acceptEdge a).2 = some e) : e.position = d.pos := by
  simp only [DecoderState.acceptEdge, DecoderState.resolve] at h
  repeat' split at h
  all_goals simp_all
  all_goals exact h ▸ rfl

@[simp] theorem DecoderState.unchanged_lvl (P : Params) (d : DecoderState) : (d.unchanged P).lvl = d.lvl := by
  unfold DecoderState.unchanged; split <;> rfl
@[simp] theorem DecoderState.unchanged_pos (P : Params) (d : DecoderState) : (d.unchanged P).pos = d.pos := by
  unfold DecoderState.unchanged; split <;> rfl
@[simp] theorem DecoderState.noise_lvl (P : Params) (d : DecoderState) (n : Nat) : (d.noise P n).lvl = d.lvl := rfl
@[simp] theorem DecoderState.noise_last (P : Params) (d : DecoderState) (n : Nat) : (d.noise P n).last = d.last := rfl
@[simp] theorem DecoderState.noise_pos (P : Params) (d : DecoderState) (n : Nat) : (d.noise P n).pos = d.pos := rfl
@[simp] theorem DecoderState.noise_counter (P : Params) (d : DecoderState) (n : Nat) :
    (d.noise P n).counter = satAdd P d.counter n := rfl

/-- No case moves `pos` before the bookkeeping at the end. -/
@[simp] theorem decCase_pos (P : Params) (d : DecoderState) (a : Bit) (la0 la1 : Option Bit) :
    (decCase P d a la0 la1).1.pos = d.pos := by
  rcases decCase_cases P d a la0 la1 with ⟨_, h⟩ | ⟨_, _, h⟩ | ⟨_, _, _, h⟩ | ⟨_, _, _, h⟩ <;>
    simp [h, DecoderState.acceptEdge_pos]

/-- Every call moves `pos` by one. -/
@[simp] theorem decProcess_pos (P : Params) (d : DecoderState) (a : Bit) (la0 la1 : Option Bit) :
    (decProcess P d a la0 la1).1.pos = nextPos P d.pos := by
  simp [decProcess, DecoderState.advance]

/-- A call whose second lookahead symbol is absent emits nothing. -/
@[simp] theorem decProcess_emission_of_no_second (P : Params) (d : DecoderState) (a : Bit) (la0 : Option Bit) :
    (decProcess P d a la0 none).2 = none := by
  rcases decCase_cases P d a la0 none with ⟨_, h⟩ | ⟨_, _, h⟩ | ⟨_, _, _, h⟩ | ⟨_, _, h1, _⟩
  · simp [decProcess, h]
  · simp [decProcess, h]
  · simp [decProcess, h]
  · simp at h1

/-- Delivering to an empty window. -/
theorem decAccept_empty (s : State) (b : Bit) (h : s.winN = 0) :
    decAccept s b = ({ s with win := s.win.set 0 b, winN := 1 }, none) := by
  simp [decAccept, h]

/-- Delivering to a window that holds one symbol. -/
theorem decAccept_half (s : State) (b : Bit) (h : s.winN = 1) :
    decAccept s b = ({ s with win := s.win.set 1 b, winN := 2 }, none) := by
  simp [decAccept, h]

/-- Delivering to a full window processes its older symbol. -/
theorem decAccept_full (s : State) (b : Bit) (h : s.winN = 2) :
    decAccept s b =
      ({ s with
          dec := (decProcess s.par s.dec s.win[0] (some s.win[1]) (some b)).1
          win := #v[s.win[1], b] },
        (decProcess s.par s.dec s.win[0] (some s.win[1]) (some b)).2) := by
  simp [decAccept, h]

/-- The window count is one of three. -/
theorem winN_cases (n : Fin 3) : n = 0 ∨ n = 1 ∨ n = 2 := by
  revert n; decide

/-- Delivering touches the window and the decoder, nothing else. -/
theorem decAccept_frame (s : State) (b : Bit) :
    (decAccept s b).1.par = s.par ∧ (decAccept s b).1.fir = s.fir ∧ (decAccept s b).1.skipCnt = s.skipCnt ∧
      (decAccept s b).1.ended = s.ended ∧ (decAccept s b).1.cmds = s.cmds := by
  rcases winN_cases s.winN with h | h | h
  · simp [decAccept_empty s b h]
  · simp [decAccept_half s b h]
  · simp [decAccept_full s b h]

theorem decDrain_empty (s : State) (h : s.winN = 0) : decDrain s = (s, []) := by
  simp [decDrain, h]

/-- Draining one symbol, which has no lookahead. -/
theorem decDrain_half (s : State) (h : s.winN = 1) :
    decDrain s = ({ s with dec := (decProcess s.par s.dec s.win[0] none none).1, winN := 0 }, []) := by
  simp [decDrain, h]

/-- Draining two symbols, the older first. -/
theorem decDrain_full (s : State) (h : s.winN = 2) :
    decDrain s =
      ({ s with
          dec := (decProcess s.par (decProcess s.par s.dec s.win[0] (some s.win[1]) none).1 s.win[1] none none).1
          winN := 0 }, []) := by
  simp [decDrain, h]

/-- Draining touches the window count and the decoder, nothing else. -/
theorem decDrain_frame (s : State) :
    (decDrain s).1.par = s.par ∧ (decDrain s).1.fir = s.fir ∧ (decDrain s).1.skipCnt = s.skipCnt ∧
      (decDrain s).1.win = s.win ∧ (decDrain s).1.ended = s.ended ∧ (decDrain s).1.cmds = s.cmds := by
  rcases winN_cases s.winN with h | h | h
  · simp [decDrain_empty s h]
  · simp [decDrain_half s h]
  · simp [decDrain_full s h]

end Sys2Proof.Machine
end

