-- ==== Sys2Proof/Laws/Fir.lean ====
section
/-! SUPPORT. What the filter stage does (spec/40_fir.md). -/

namespace Sys2Proof.Machine

/-- The slot under the cursor holds the new sample. -/
@[simp] theorem FilterState.push_slot_cursor (f : FilterState) (b : Bit) : (f.push b).slot f.cursor = b := by
  simp [FilterState.push, FilterState.slot]

/-- Every other slot keeps its sample. -/
theorem FilterState.push_slot_other (f : FilterState) (b : Bit) (j : Fin 16) (h : j ≠ f.cursor) :
    (f.push b).slot j = f.slot j := by
  have : (f.cursor : Nat) ≠ (j : Nat) := fun e => h (Fin.ext e.symm)
  simp [FilterState.push, FilterState.slot, this]

@[simp] theorem FilterState.push_cursor (f : FilterState) (b : Bit) : (f.push b).cursor = f.cursor + 1 := rfl

/-- Tap 0 reads the slot just written. -/
@[simp] theorem tapSlot_zero (w : Fin 16) : tapSlot w 0 = w := by simp [tapSlot]

@[simp] theorem bitValue_false : bitValue false = 0 := rfl
@[simp] theorem bitValue_true : bitValue true = 1 := rfl

@[simp] theorem bitValue_mul (b : Bit) (x : Rat) : bitValue b * x = if b then x else 0 := by
  cases b <;> simp [bitValue]

/-- The sum is the sum of the coefficients whose slot holds a 1 (spec/40_fir.md R92). -/
theorem firSum_eq (K : Kernel) (f : FilterState) (w : Fin 16) :
    firSum K f w = ∑ i : Fin 16, if f.slot (w - i) then K.coeff i else 0 := by
  simp only [firSum, bitValue_mul, tapSlot]

end Sys2Proof.Machine
end

