-- ==== Sys2Proof/Laws/PerInstr.lean ====
section
/-! SUPPORT. One lemma per operation about its word: it selects the operation's own row of the opcode table and no other
(spec/30_encoding.md R71). -/

namespace Sys2Proof.Laws.SelectsRow

/-- The word of `i` selects exactly the rows that carry its mnemonic. -/
def Statement (i : Instr) : Prop := ∀ r ∈ opcodeTable, r.selects (encode i) = (r.mnemonic == i.mnemonic)

theorem reset : Statement .reset := by unfold Statement; decide
theorem idle : Statement .idle := by unfold Statement; decide
theorem push (data : Byte) : Statement (.push data) := by
  unfold Statement; revert data; decide +kernel
theorem sym (data : Byte) : Statement (.sym data) := by
  unfold Statement; revert data; decide +kernel
theorem endStream : Statement .endStream := by unfold Statement; decide

end Sys2Proof.Laws.SelectsRow
end

