-- ==== Sys2Proof/Laws/Stream.lean ====
section
/-! SUPPORT. What exec answers for each operation, and how a run takes its words (spec/43_stream_ops.md). -/

namespace Sys2Proof.Machine

@[simp] theorem exec_reset (s : State) : exec .reset s = .next s.toReset := rfl
@[simp] theorem exec_idle (s : State) : exec .idle s = .next (s.drive none) := rfl
@[simp] theorem exec_push (data : Byte) (s : State) :
    exec (.push data) s = .next (s.unlessEnded (s.pushSample (sampleOf data))) := rfl
@[simp] theorem exec_sym (data : Byte) (s : State) :
    exec (.sym data) s = .next (s.unlessEnded (s.deliver (symbolOf data))) := rfl
@[simp] theorem exec_endStream (s : State) : exec .endStream s = .next (s.unlessEnded s.endOfStream) := rfl

/-- Delivering a symbol touches the window, the decoder and the output, nothing else. -/
theorem State.deliver_frame (s : State) (b : Bit) :
    (s.deliver b).par = s.par ∧ (s.deliver b).fir = s.fir ∧ (s.deliver b).skipCnt = s.skipCnt ∧
      (s.deliver b).ended = s.ended ∧ (s.deliver b).cmds = s.cmds := by
  simpa [State.deliver] using decAccept_frame s b

/-- A PUSH whose output is dropped. -/
theorem State.pushSample_dropped (s : State) (b : Bit) (h : 0 < s.skipCnt) :
    s.pushSample b = { s with fir := s.fir.push b, skipCnt := s.skipCnt - 1, out := none } := by
  simp [State.pushSample, State.afterFilter, discardWarmup, State.discarding, h]
  rfl

/-- A PUSH whose output is kept: the sliced symbol is delivered. -/
theorem State.pushSample_kept (s : State) (b : Bit) (h : s.skipCnt = 0) :
    s.pushSample b = State.deliver { s with fir := s.fir.push b }
      (slice s.par.threshold (s.fir.output s.par.kernel b)) := by
  have hd : (firStep s b).1.discarding = false := by simp [State.discarding, h]
  simp only [State.pushSample, State.afterFilter, discardWarmup, hd]
  rfl

/-- END touches the window count, the decoder, `ended` and the output, nothing else. -/
theorem State.endOfStream_frame (s : State) :
    s.endOfStream.par = s.par ∧ s.endOfStream.fir = s.fir ∧ s.endOfStream.skipCnt = s.skipCnt ∧
      s.endOfStream.win = s.win ∧ s.endOfStream.cmds = s.cmds := by
  have := decDrain_frame s
  simp [State.endOfStream, this]

/-- No operation takes a word from the host, and none changes `P`. -/
theorem exec_par_cmds (i : Instr) (s t : State) (h : exec i s = .next t) : t.par = s.par ∧ t.cmds = s.cmds := by
  cases he : s.ended <;> cases i <;> simp [State.unlessEnded, he] at h <;> subst h <;>
    try simp [State.deliver_frame, State.endOfStream_frame]
  rcases Nat.eq_zero_or_pos s.skipCnt with hk | hk
  · simp [State.pushSample_kept s _ hk, State.deliver_frame]
  · simp [State.pushSample_dropped s _ hk]

/-- A step with a word presented runs the operation that word selects. -/
theorem step_of_cmds (s : State) (cw : CmdWord) (ws : List CmdWord) (h : s.cmds = cw :: ws) :
    step s = exec (decode cw) { s with cmds := ws } := by
  simp [step, State.fetch, h]

@[simp] theorem runWords_nil (s : State) : runWords s [] = (s.presenting [], []) := rfl

/-- A run of one word and more: the operation of the word, then the rest from where it leaves. -/
theorem runWords_cons (s t : State) (cw : CmdWord) (ws : List CmdWord)
    (h : exec (decode cw) (s.presenting ws) = .next t) :
    runWords s (cw :: ws) = ((runWords t ws).1, t.out.toList ++ (runWords t ws).2) := by
  have hp : t.presenting ws = t := by
    have := (exec_par_cmds _ _ _ h).2
    simp only [State.presenting_cmds] at this
    cases t; simp_all [State.presenting]
  have hs : step (s.presenting (cw :: ws)) = .next t := by
    rw [step_of_cmds _ cw ws rfl]; exact h
  simp only [runWords, List.length_cons, runSteps, hs, hp]

end Sys2Proof.Machine
end

