-- ==== Sys2Proof/Tests/Slice0.lean ====
section
/-! SUPPORT. The model's own tests. Expected values come from spec/95_test_vectors.md (the vector is named at each test) or from the
spec's encoding table; the `witness_…` theorems show that the hypotheses of the statement named after them can be met. -/

namespace Sys2Proof.Tests

open Sys2Proof.Machine

/-! ### Small states -/

/-- The parameters of the vectors: `KT1`, 19/20, `SKIP = 15`, `POS_W = 32`, `CNT_MAX = 15`. -/
def par : Params := Config.paramsWith Config.kt1

/-- The state after RESET. -/
def fresh : State := State.resetOf par

/-- A stream past the discard: the decoder registers and the window as given. -/
def mid (d : DecoderState) (n : Fin 3) (w0 w1 : Bit) : State :=
  { fresh with skipCnt := 0, winN := n, win := #v[w0, w1], dec := d }

/-- An ended stream. -/
def closed : State := { mid ⟨.l1, some true, 2, 4⟩ 0 true true with ended := true }

/-- The next state of an outcome. -/
def nextOf : Host.Outcome State Fault Refusal → Option State
  | .next t => some t
  | .fault _ => none
  | .refused _ => none

/-! ### Decoding: words written out from the patterns of spec/30_encoding.md R71 -/

theorem test_decode_reset : decode 0b10000000000 = .reset ∧ decode 0b11100000001 = .reset ∧ decode 0b10101010101 = .reset := by decide
theorem test_decode_idle : decode 0b00000000000 = .idle ∧ decode 0b00011111111 = .idle := by decide
theorem test_decode_push : decode 0b00100110000 = .push 0x30 ∧ decode 0b00111111111 = .push 0xFF := by decide
theorem test_decode_sym : decode 0b01000000000 = .sym 0x00 ∧ decode 0b01000000001 = .sym 0x01 := by decide
theorem test_decode_end : decode 0b01100000000 = .endStream ∧ decode 0b01111111111 = .endStream := by decide

/-- A number of more than eleven bits is rejected by name; the table's numbering drops bits it does not give. -/
theorem test_decode_too_wide : decodeNumber 0x7FF = .ok .reset ∧ decodeNumber 0x800 = .error .widerThanElevenBits ∧
    decodeTableWord 16 0x800 = none ∧ decodeTableWord 11 0x101 = some (.push 1) := by decide

/-- The very next step runs the word that `withFetchWord` stores (O3: word 0x101 on the reset state). -/
theorem test_withFetchWord : (nextOf (step (fresh.withFetchWord 16 0x101))).map (fun t => (t.fir.cursor, t.skipCnt)) = some (1, 14) := by
  decide +kernel

/-! ### Well-formedness -/

theorem test_wellFormed_instr : [Instr.reset, .idle, .push 0xFF, .sym 0xFE, .endStream].all Instr.wellFormed = true := by decide

/-- R81's range of a stimulus number: 255 is the last one accepted. -/
theorem test_wellFormed_line : [Line.push 255, .sym 255, .run 3 255, .srun 0 0].all Line.wellFormed = true ∧
    [Line.push 256, .sym 256, .run 3 256, .srun 0 256].any Line.wellFormed = false := by decide

/-- The spec's three test kernels meet R8. -/
theorem test_kernels_admissible : Config.kt1.Admissible ∧ Config.kt2.Admissible ∧ Config.kt3.Admissible := by decide +kernel

/-- Refused: an asymmetric kernel; a kernel whose sum is not 1; `CNT_MAX = 9`. Accepted: `CNT_MAX = 10`. -/
theorem test_illFormed_params :
    ¬ ({ par with kernel := Config.kt1.set 0 (2 / 256) |>.set 1 (1 / 256) } : Params).WellFormed ∧
    ¬ ({ par with kernel := Vector.replicate 16 (1 / 15) } : Params).WellFormed ∧
    ¬ ({ par with cntMax := 9 } : Params).WellFormed ∧ ({ par with cntMax := 10 } : Params).WellFormed := by decide +kernel

/-! ### One step of each operation -/

/-- O1: RESET from a state with `ended = 1`. -/
theorem test_reset_from_ended : nextOf (exec .reset closed) = some fresh := by decide +kernel

/-- O9: word 0x701 is RESET, not END. -/
theorem test_reset_priority : decode 0x701 = .reset := by decide

/-- O2: IDLE. -/
theorem test_idle : nextOf (exec .idle (mid ⟨.l1, some true, 2, 9⟩ 2 false true)) = some (mid ⟨.l1, some true, 2, 9⟩ 2 false true) := by
  decide +kernel

/-- O3: PUSH of 0xFE, then of 0x01, during the discard. -/
theorem test_push_dropped :
    nextOf (exec (.push 0xFE) fresh) = some { fresh with fir := { fresh.fir with cursor := 1 }, skipCnt := 14 } ∧
    nextOf (exec (.push 0x01) fresh) =
      some { fresh with fir := { hist := fresh.fir.hist.set 0 true, cursor := 1 }, skipCnt := 14 } := by decide +kernel

/-- O4: the PUSH of program P1 that emits; the history is program P1's after 26 samples (F6), the new sample is 1, `y = 224/256`. -/
theorem test_push_emits :
    let h : Vector Bit 16 := #v[true, true, true, true, false, true, true, true, true, true, true, true, true, true, true, true]
    let s : State := { mid ⟨.l1, some true, 2, 9⟩ 2 false false with fir := ⟨h, 10⟩ }
    (nextOf (exec (.push 0x31) s)).map (fun t => (t.out, t.dec, t.win)) =
      some (some ⟨false, 9⟩, ⟨.l0, none, 0, 10⟩, #v[false, false]) := by decide +kernel

/-- P4, step 10: SYM 1 processes a 0 that fails at lookahead step 0. -/
theorem test_sym_noise : nextOf (exec (.sym 1) (mid ⟨.unknown, none, 0, 0⟩ 2 false true)) =
    some (mid ⟨.unknown, none, 1, 1⟩ 2 true true) := by decide +kernel

/-- O7: the third SYM 1 after RESET; the filter's registers and `skip_cnt` stand. -/
theorem test_sym_bypasses_discard : nextOf (exec (.sym 1) { fresh with winN := 2, win := #v[true, true] }) =
    some { fresh with winN := 2, win := #v[true, true], dec := ⟨.l1, none, 0, 1⟩ } := by decide +kernel

/-- O6: END with two symbols in the window. -/
theorem test_end_two_symbols : nextOf (exec .endStream { fresh with winN := 2, win := #v[true, true] }) =
    some { fresh with win := #v[true, true], dec := ⟨.unknown, none, 3, 2⟩, ended := true } := by decide +kernel

/-- O5: END on an empty stream. -/
theorem test_end_empty : nextOf (exec .endStream fresh) = some { fresh with ended := true } := by decide +kernel

/-- O8: nothing happens after END. -/
theorem test_after_end : [Instr.push 1, .sym 1, .endStream, .idle].all (fun i => nextOf (exec i closed) == some closed) = true := by
  decide +kernel

/-! ### The stage functions -/

/-- F7: with `KT3`, twelve ones, a 0 and three ones under the last sixteen samples give exactly 19/20, which slices to 1. -/
theorem test_fir_exact_threshold :
    let f : FilterState := ⟨(Vector.replicate 16 true).set 13 false, 0⟩
    f.output Config.kt3 true = 19 / 20 ∧ slice (19 / 20) (f.output Config.kt3 true) = true := by decide +kernel

/-- F3: the first output of a step with `KT2` is negative. -/
theorem test_fir_negative_tap : FilterState.reset.output Config.kt2 true = -2 / 64 := by decide +kernel

/-- L1 to L7. -/
theorem test_slice : slice (19 / 20) (243 / 256) = false ∧ slice (19 / 20) (244 / 256) = true ∧ slice (19 / 20) (19 / 20) = true ∧
    slice (19 / 20) (18 / 20) = false ∧ slice (19 / 20) (-2 / 64) = false ∧ slice (19 / 20) (67 / 64) = true ∧
    slice (1 / 2) (128 / 256) = true ∧ slice (1 / 2) (127 / 256) = false := by decide +kernel

/-- L8. -/
theorem test_thresholdInt : thresholdInt 8 = 244 ∧ thresholdInt 6 = 61 ∧ thresholdInt 12 = 3892 := by decide

/-- U1 to U10. -/
theorem test_decProcess_U1_to_U10 :
    decProcess par ⟨.l1, none, 4, 7⟩ true (some false) (some false) = (⟨.l1, none, 5, 8⟩, none) ∧
    decProcess par ⟨.l1, some true, 9, 7⟩ true (some false) (some false) = (⟨.l1, some false, 0, 8⟩, none) ∧
    decProcess par ⟨.l0, some false, 9, 19⟩ false (some true) (some true) = (⟨.l0, some false, 0, 20⟩, none) ∧
    decProcess par ⟨.l1, none, 4, 7⟩ false (some true) (some false) = (⟨.l1, none, 5, 8⟩, none) ∧
    decProcess par ⟨.l1, none, 4, 7⟩ false (some false) (some true) = (⟨.l1, none, 6, 8⟩, none) ∧
    decProcess par ⟨.unknown, none, 0, 0⟩ true (some true) (some true) = (⟨.l1, none, 0, 1⟩, none) ∧
    decProcess par ⟨.l1, none, 4, 7⟩ false (some false) (some false) = (⟨.l0, some true, 0, 8⟩, none) ∧
    decProcess par ⟨.l1, some true, 4, 7⟩ false (some false) (some false) = (⟨.l0, none, 0, 8⟩, some ⟨false, 7⟩) ∧
    decProcess par ⟨.l1, some false, 4, 7⟩ false (some false) (some false) = (⟨.l0, none, 0, 8⟩, some ⟨true, 7⟩) ∧
    decProcess par ⟨.l0, some false, 0, 30⟩ true (some true) (some true) = (⟨.l1, some false, 0, 31⟩, none) := by decide

/-- U11 to U20. -/
theorem test_decProcess_U11_to_U20 :
    decProcess par ⟨.unknown, none, 15, 9⟩ true (some false) (some true) = (⟨.unknown, none, 15, 10⟩, none) ∧
    decProcess par ⟨.unknown, none, 14, 9⟩ true (some true) (some false) = (⟨.unknown, none, 15, 10⟩, none) ∧
    decProcess par ⟨.l1, some true, 12, 7⟩ true (some false) (some false) = (⟨.l1, some false, 0, 8⟩, none) ∧
    decProcess par ⟨.l1, none, 4, 7⟩ false none none = (⟨.l1, none, 5, 8⟩, none) ∧
    decProcess par ⟨.l1, none, 4, 7⟩ false (some false) none = (⟨.l1, none, 6, 8⟩, none) ∧
    decProcess par ⟨.unknown, none, 3, 5⟩ false (some false) (some false) = (⟨.l0, some true, 0, 6⟩, none) ∧
    decProcess par ⟨.l1, none, 9, 7⟩ false (some true) (some true) = (⟨.l1, none, 10, 8⟩, none) ∧
    decProcess par ⟨.l1, none, 10, 8⟩ false (some true) (some true) = (⟨.l1, none, 11, 9⟩, none) ∧
    decProcess par ⟨.l1, none, 11, 9⟩ true (some true) (some true) = (⟨.l1, some false, 0, 10⟩, none) ∧
    decProcess par ⟨.l1, none, 4, 4294967295⟩ true (some true) (some true) = (⟨.l1, none, 5, 0⟩, none) := by decide

/-- R76 and R78: the output word of `(0, 9)` with `POS_W = 4` is `1 0 1001`; no output is the word 0; LH2's sentinel ends in 11. -/
theorem test_ports : outWord 4 (some ⟨false, 9⟩) = 0b101001 ∧ outWord 4 none = 0 ∧ Level.code .unknown = 0b11 := by decide

/-! ### Witnesses: the hypotheses of the statements can be met -/

theorem witness_DecodeAndEncodeAgree : (Instr.push 0xFF).wellFormed = true ∧ Instr.reset.wellFormed = true := by decide

theorem witness_EveryWordSelectsExactlyOneRow : decode 0x1FF = .push 0xFF ∧ decode 0x200 = .sym 0x00 := by decide

/-- Both ends of the range of `v`; `RUN 0, v` stands for nothing. -/
theorem witness_StimulusLinesDecodeAsWritten :
    (255 ≤ 255 ∧ (Line.push 255).words = [0x1FF] ∧ (Line.srun 2 255).words = [0x2FF, 0x2FF]) ∧
    (0 ≤ 255 ∧ (Line.sym 0).words = [0x200] ∧ (Line.run 0 0).words = []) := by decide

/-- One pair of words for each way the hypothesis of `IgnoredBitsHaveNoEffect` can hold, differing in every ignored bit. -/
theorem witness_IgnoredBitsHaveNoEffect :
    ((0x400 : CmdWord).getLsbD 10 = true ∧ (0x7FF : CmdWord).getLsbD 10 = true) ∧
    ((0x000 : CmdWord).extractLsb' 8 3 = (0x0FF : CmdWord).extractLsb' 8 3 ∧ (0x000 : CmdWord).extractLsb' 8 3 = 0b000) ∧
    ((0x300 : CmdWord).extractLsb' 8 3 = (0x3FF : CmdWord).extractLsb' 8 3 ∧ (0x300 : CmdWord).extractLsb' 8 3 = 0b011) ∧
    ((0x100 : CmdWord).extractLsb' 8 3 = (0x1FE : CmdWord).extractLsb' 8 3 ∧
      (0x100 : CmdWord).getLsbD 0 = (0x1FE : CmdWord).getLsbD 0) ∧
    ((0x201 : CmdWord).extractLsb' 8 3 = (0x2FF : CmdWord).extractLsb' 8 3 ∧
      (0x201 : CmdWord).getLsbD 0 = (0x2FF : CmdWord).getLsbD 0) := by decide

theorem witness_StepRunsTheDecodedOperation :
    (∃ (s : State) (cw : CmdWord) (rest : List CmdWord), s.cmds = cw :: rest) ∧ fresh.cmds = [] ∧
    decodeTableWord 11 0x101 = some (.push 1) ∧ decodeTableWord 16 0x400 = some .reset :=
  ⟨⟨fresh.presenting [0x101, 0x300], 0x101, [0x300], rfl⟩, rfl, by decide, by decide⟩

theorem witness_ResetGivesEveryRegisterItsTableValue : (∃ t, exec .reset closed = .next t) ∧ (0x701 : CmdWord).getLsbD 10 = true :=
  ⟨⟨_, rfl⟩, by decide⟩

/-- Both sides of the discard: `skip_cnt` 1 and 0. -/
theorem witness_PushRunsTheThreeStages :
    (({ fresh with skipCnt := 1 } : State).ended = false ∧ 0 < ({ fresh with skipCnt := 1 } : State).skipCnt) ∧
    ((mid DecoderState.reset 0 false false).ended = false ∧ (mid DecoderState.reset 0 false false).skipCnt = 0) := by decide

theorem witness_SymDeliversItsSymbol : fresh.ended = false ∧ ∃ t, exec (.sym 1) fresh = .next t := ⟨rfl, _, rfl⟩

/-- Sixteen ones under the taps: the sliced symbol is 1. -/
theorem witness_KeptPushActsAsSymOfItsSlice :
    ∃ (s t u : State), s.skipCnt = 0 ∧ exec (.push 1) s = .next t ∧
      (1 : Byte).getLsbD 0 = slice s.par.threshold (firStep s ((1 : Byte).getLsbD 0)).2 ∧ exec (.sym 1) s = .next u :=
  ⟨{ mid DecoderState.reset 2 true true with fir := ⟨Vector.replicate 16 true, 3⟩ }, _, _, rfl, rfl, by decide +kernel, rfl⟩

theorem witness_EndDrainsTheWindowAndCloses :
    (fresh.ended = false ∧ fresh.winN = 0) ∧ (mid DecoderState.reset 1 true false).winN = 1 ∧
      (mid DecoderState.reset 2 true true).winN = 2 ∧ ∃ t, exec .endStream fresh = .next t :=
  ⟨⟨rfl, rfl⟩, rfl, rfl, _, rfl⟩

theorem witness_EndedIsSetByEndAndClearedByReset :
    (∃ t, exec .endStream fresh = .next t) ∧ closed.ended = true ∧ (.push 1 : Instr) ≠ .reset := ⟨⟨_, rfl⟩, rfl, by decide⟩

theorem witness_ResetAndEndAreIdempotent :
    (∃ t, exec .reset fresh = .next t) ∧ (∃ t, exec .endStream fresh = .next t) ∧ ∃ t, exec .idle fresh = .next t :=
  ⟨⟨_, rfl⟩, ⟨_, rfl⟩, _, rfl⟩

theorem witness_FrameOfTheFilterSide :
    (∃ t, exec (.sym 1) fresh = .next t) ∧ (∃ t, exec (.push 1) fresh = .next t) ∧ (15 : Fin 16) ≠ fresh.fir.cursor ∧
      (mid DecoderState.reset 0 false false).skipCnt = 0 := ⟨⟨_, rfl⟩, ⟨_, rfl⟩, by decide, rfl⟩

theorem witness_FrameOfTheDecoderSide :
    (0 < fresh.skipCnt ∧ ∃ t, exec (.push 1) fresh = .next t) ∧ (∃ t, exec (.sym 1) fresh = .next t) ∧
      (mid DecoderState.reset 1 false false).winN ≠ 2 ∧ ∃ t, exec .endStream fresh = .next t :=
  ⟨⟨by decide, _, rfl⟩, ⟨_, rfl⟩, by decide, _, rfl⟩

/-- Two states that differ in the decoder's registers alone. -/
theorem witness_NoFeedbackIntoTheFilter :
    ∃ (s s' t t' : State) (i : Instr), s.par = s'.par ∧ s.fir = s'.fir ∧ s.skipCnt = s'.skipCnt ∧ s.ended = s'.ended ∧
      exec i s = .next t ∧ exec i s' = .next t' ∧ s ≠ s' :=
  ⟨mid ⟨.l1, some true, 3, 4⟩ 2 true true, mid DecoderState.reset 0 false false, _, _, .push 1, rfl, rfl, rfl, rfl, rfl, rfl,
    by decide +kernel⟩

theorem witness_FirStepWritesOneSlotThenSumsTheRing : (15 : Fin 16) ≠ fresh.fir.cursor := by decide

/-- Both ends of the range of `n`, with three samples (zeros before the first) and with twenty. -/
theorem witness_RingHoldsTheLastSixteenSamples :
    (3 < (List.replicate 3 true).length + 16 ∧ (List.replicate 3 true).length ≤ 3) ∧
    (18 < (List.replicate 3 true).length + 16 ∧ (List.replicate 3 true).length ≤ 18) ∧
    (35 < (List.replicate 20 true).length + 16 ∧ (List.replicate 20 true).length ≤ 35) := by decide

theorem witness_OldestFirstReadoutGivesTheSameOutput : Config.kt2.Admissible := by decide +kernel

theorem witness_DcResponseIsTheKernelSum :
    (∀ j : Fin 16, (⟨Vector.replicate 16 true, 5⟩ : FilterState).slot j = true) ∧ Config.kt1.Admissible ∧
      (∀ j : Fin 16, FilterState.reset.slot j = false) ∧ Config.kt3 ∈ [Config.kt1, Config.kt2, Config.kt3] := by decide +kernel

theorem witness_FirOutputLiesBetweenTheSignedSums : ∀ i : Fin 16, 0 ≤ fresh.par.kernel.coeff i := by decide +kernel

theorem witness_DiscardDropsWhileSkipCountIsPositive :
    0 < ({ fresh with skipCnt := 1 } : State).skipCnt ∧ (mid DecoderState.reset 0 false false).skipCnt = 0 := by decide

theorem witness_SliceIsOneFromTheThresholdUp : (19 / 20 : Rat) ≤ 19 / 20 ∧ (243 / 256 : Rat) < 19 / 20 := by decide +kernel

theorem witness_FixedPointSlicerAgrees : ∃ q : Nat, 0 < q := ⟨20, by decide⟩

theorem witness_DyadicKernelNeverMeetsTheThreshold : ∀ i : Fin 16, ∃ k : Int, Config.kt1.coeff i = k / 2 ^ 8 := by
  have h : ∀ i : Fin 16, Config.kt1.coeff i = ((Config.kt1.coeff i * 256).num : Rat) / 2 ^ 8 := by decide +kernel
  exact fun i => ⟨_, h i⟩

/-- Counts 8 and 9, on the two sides of the limit, and both levels. -/
theorem witness_UnchangedSymbolCountsOrFallsBack :
    ∃ d d' : DecoderState, (d.lvl = .l0 ∧ min (d.counter + 1) par.cntMax < 10) ∧ (d'.lvl = .l1 ∧ 10 ≤ min (d'.counter + 1) par.cntMax) :=
  ⟨⟨.l0, none, 8, 7⟩, ⟨.l1, some true, 9, 7⟩, by decide⟩

theorem witness_FailedCandidateCountsAsNoise :
    ¬((Level.unknown = .l0 ∧ true = false) ∨ (Level.unknown = .l1 ∧ true = true)) ∧ (none : Option Bit) ≠ some true ∧
      (some false : Option Bit) ≠ some true := by decide

theorem witness_AcceptedEdgeResolvesThePendingHalfBit :
    ∃ d d' : DecoderState, ¬((d.lvl = .l0 ∧ true = false) ∨ (d.lvl = .l1 ∧ true = true)) ∧ d.counter = 0 ∧ d.lvl = d'.lvl ∧
      d'.counter ≠ 0 ∧ d'.last = some false ∧ ({ d' with last := some true } : DecoderState).last = some true ∧
      ({ d' with last := none } : DecoderState).last = none :=
  ⟨⟨.unknown, none, 0, 0⟩, ⟨.unknown, some false, 1, 5⟩, by decide⟩

theorem witness_EveryCallMovesThePositionByOne :
    par.posW = some 32 ∧ ({ par with posW := none } : Params).posW = none ∧ 3 ≤ (List.replicate 3 true).length := by decide

theorem witness_DecoderFollowsItsTable :
    TableRow.unchangedFallback.Applies par ⟨.l1, some true, 9, 7⟩ true none none ∧
      TableRow.edgeFirst.Applies par ⟨.l1, none, 1, 7⟩ false (some false) (some false) := by
  unfold TableRow.Applies; decide

theorem witness_EmissionNeedsConfirmedEdgeAndPendingBit :
    (decProcess par ⟨.l1, some false, 1, 7⟩ false (some false) (some false)).2 = some ⟨true, 7⟩ := by decide

theorem witness_LevelChangesOnlyByConfirmedEdgeOrReset :
    ∃ (s t : State) (i : Instr), exec i s = .next t ∧ i ≠ .reset ∧ t.dec.lvl ≠ s.dec.lvl :=
  ⟨mid ⟨.l1, some true, 2, 9⟩ 2 false false, _, .sym 0, rfl, by decide, by decide +kernel⟩

theorem witness_DeliveredSymbolsFillTheWindowThenAreProcessed :
    fresh.winN = 0 ∧ (mid DecoderState.reset 1 true false).winN = 1 ∧ (mid DecoderState.reset 2 true false).winN = 2 := by decide

theorem witness_DrainProcessesTheWindowAndNeverEmits :
    fresh.winN = 0 ∧ (mid DecoderState.reset 1 true false).winN = 1 ∧ (mid DecoderState.reset 2 true false).winN = 2 := by decide

/-- A counter saturating at 10, the least limit, against the default. -/
theorem witness_SaturationLimitIsUnobservable :
    ({ par with cntMax := 10 } : Params).posW = par.posW ∧ 10 ≤ ({ par with cntMax := 10 } : Params).cntMax ∧ 10 ≤ par.cntMax := by
  decide

/-- The default instance, a 2-bit position with the longest stream it still numbers, and the unbounded position. -/
theorem witness_EmissionsAreThreePositionsApart :
    (∀ W, par.posW = some W → (List.replicate 7 true).length ≤ 2 ^ W) ∧
    (∀ W, ({ par with posW := some 2 } : Params).posW = some W → (List.replicate 4 true).length ≤ 2 ^ W) ∧
    (∀ W, ({ par with posW := none } : Params).posW = some W → (List.replicate 7 true).length ≤ 2 ^ W) := by
  refine ⟨?_, ?_, ?_⟩ <;> rintro W h <;> cases h <;> decide

/-- The longest stream that a 2-bit position still numbers. -/
theorem witness_PositionsStrictlyIncrease :
    ∀ W, ({ par with posW := some 2 } : Params).posW = some W → (List.replicate 4 true).length ≤ 2 ^ W := by
  rintro W h; cases h; decide

/-- Vector D8: a glitch at position 8 of `1×5, 0×9, 1×5`, the first position the rule allows. -/
theorem witness_SingleGlitchInsideARunIsInvisible :
    let s : List Bit := List.replicate 5 true ++ (List.replicate 9 false ++ List.replicate 5 true)
    3 ≤ 8 ∧ 8 + 1 < s.length ∧ (∀ j, 8 ≤ j + 3 → j ≤ 8 + 1 → s[j]? = some false) ∧
      min ((decoderAt par DecoderState.reset s 8).counter + 1) par.cntMax < 10 := by
  refine ⟨by decide, by decide, fun j h1 h2 => ?_, by decide⟩
  obtain rfl | rfl | rfl | rfl | rfl : j = 5 ∨ j = 6 ∨ j = 7 ∨ j = 8 ∨ j = 9 := by omega
  all_goals rfl

/-- Every clause at the ends of its range: short runs of 3 and 10, the runs of 11 and 21 that clear the counter just before their edge,
long runs of 12 and 20; and each value of the pending half-bit. -/
theorem witness_CleanRunDecidesItsEdge :
    (∀ last : Option Bit, ∃ d : DecoderState, d.last = last ∧ 10 ≤ par.cntMax ∧ d.lvl = levelOf true ∧ d.counter = 0) ∧
    (∀ r ∈ [3, 10], 3 ≤ r ∧ ¬ 11 ≤ r ∧ ¬ r % 10 = 1) ∧ (∀ r ∈ [11, 21], 3 ≤ r ∧ 11 ≤ r ∧ r % 10 = 1) ∧
    (∀ r ∈ [12, 20], 3 ≤ r ∧ 11 ≤ r ∧ ¬ r % 10 = 1) :=
  ⟨fun last => ⟨⟨.l1, last, 0, 1⟩, rfl, by decide, rfl, rfl⟩, by decide⟩

theorem witness_ConstantLevelFiresTheFallbackEveryTenthSymbol :
    ∃ d : DecoderState, 10 ≤ par.cntMax ∧ d.lvl = levelOf false ∧ d.counter < 10 := ⟨⟨.l0, none, 9, 1⟩, by decide⟩

theorem witness_StreamingDecoderMatchesTheReference : fresh.ended = false ∧ fresh.winN = 0 := ⟨rfl, rfl⟩

/-- PUSH 1, IDLE, PUSH 0, IDLE, END; and the same with SYM. -/
theorem witness_PushedStreamDrivesThePipeline :
    (([0x101, 0x000, 0x100, 0x0FF, 0x300] : List CmdWord).filter fun cw => decode cw != .idle) =
      ([1, 0] : List Byte).map (fun b => encode (.push b)) ++ [encode .endStream] ∧
    (([0x201, 0x000, 0x200, 0x0FF, 0x300] : List CmdWord).filter fun cw => decode cw != .idle) =
      ([1, 0] : List Byte).map (fun b => encode (.sym b)) ++ [encode .endStream] := by decide

theorem witness_EmissionAppearsTwoSymbolsLater : ∃ (s t : State) (i : Instr) (e : Emission), exec i s = .next t ∧ t.out = some e :=
  ⟨mid ⟨.l1, some true, 2, 9⟩ 2 false false, _, .sym 0, ⟨false, 9⟩, rfl, by decide +kernel⟩

theorem witness_PushCountsOfEveryRegister : par.posW = some 32 ∧ ({ par with posW := none } : Params).posW = none := ⟨rfl, rfl⟩

theorem witness_EndedStreamStaysSilent :
    closed.ended = true ∧ ∀ cw ∈ ([0x101, 0x201, 0x300, 0x000] : List CmdWord), decode cw ≠ .reset := by decide

theorem witness_ResetForgetsEverythingButTheParameters : closed.par = fresh.par ∧ decode 0x7FF = .reset ∧ closed ≠ fresh := by
  decide +kernel

theorem witness_ResetStateSatisfiesTheInvariant : par.WellFormed := by decide +kernel

/-- A state in mid-stream, just after an emission, meets the invariant, and steps on. -/
theorem witness_EveryStepKeepsTheInvariant :
    ∃ s t : State, s.Inv ∧ s.out ≠ none ∧ step s = .next t :=
  ⟨{ mid ⟨.l0, none, 0, 10⟩ 2 false false with out := some ⟨false, 9⟩ }, _,
    { params := by decide +kernel
      counter := by decide
      skip := by decide
      pos := by rintro W h; cases h; decide
      last := by decide
      out := by decide
      filling := by decide }, by decide, rfl⟩

theorem witness_DecoderIsQuietWhileDiscarding :
    ∃ s t : State, 0 < s.skipCnt ∧ s.QuietWhileDiscarding ∧ (∀ data, (.push 1 : Instr) ≠ .sym data) ∧ exec (.push 1) s = .next t :=
  ⟨{ fresh with skipCnt := 1 }, _, by decide, by decide, fun _ => by simp, rfl⟩

/-- A count of 11 that the bound's reason allows. -/
theorem witness_CounterStaysBelowThirteenOnceTheLevelIsKnown :
    ∃ s t : State, s.Inv ∧ s.CounterTight ∧ s.dec.lvl ≠ .unknown ∧ s.dec.counter = 11 ∧ step s = .next t :=
  ⟨mid ⟨.l1, some false, 11, 40⟩ 2 false true, _,
    { params := by decide +kernel
      counter := by decide
      skip := by decide
      pos := by rintro W h; cases h; decide
      last := by decide
      out := by decide
      filling := by decide }, by decide, by decide, rfl, rfl⟩

theorem witness_NoRunChangesTheParameters : ∃ t, step fresh = .next t := ⟨_, rfl⟩

/-- The last position of 32 bits, and the only one of none. -/
theorem witness_OutputWordHoldsItsFields :
    (⟨true, 4294967295⟩ : Emission).position < 2 ^ 32 ∧ (⟨true, 0⟩ : Emission).position < 2 ^ 0 := by decide

theorem witness_RegisterCodesAreAsListed : Level.code .unknown = Level.code .unknown ∧ lastCode none = lastCode none := ⟨rfl, rfl⟩

end Sys2Proof.Tests
end

section
/-! No stage feeds back (spec/00_scope.md R3): what each operation leaves in the filter registers, `skip_cnt` and `ended` is
determined by what stood in them, and by `P`. -/

namespace Sys2Proof.Machine

/-- A PUSH leaves the filter with the new sample, `skip_cnt` one less with floor 0, and `ended` as it was, dropped or kept
(spec/43_stream_ops.md R142). -/
theorem State.pushSample_filterSide (s : State) (b : Bit) :
    (s.pushSample b).fir = s.fir.push b ∧ (s.pushSample b).skipCnt = s.skipCnt - 1 ∧ (s.pushSample b).ended = s.ended := by
  rcases Nat.eq_zero_or_pos s.skipCnt with hkept | hdropped
  · simp [State.pushSample_kept s b hkept, State.deliver_frame, hkept]
  · simp [State.pushSample_dropped s b hdropped]

@[simp] theorem State.endOfStream_ended (s : State) : s.endOfStream.ended = true := rfl

/-- The filter registers, `skip_cnt` and `ended` of the two states agree. -/
def State.SameFilterSide (s s' : State) : Prop := s.fir = s'.fir ∧ s.skipCnt = s'.skipCnt ∧ s.ended = s'.ended

/-- Driving an output keeps the agreement. -/
theorem State.SameFilterSide.drive {s s' : State} (h : s.SameFilterSide s') (e e' : Option Emission) :
    (s.drive e).SameFilterSide (s'.drive e') := h

/-- Delivering symbols keeps the agreement, whatever the symbols, the windows and the decoders are. -/
theorem State.SameFilterSide.deliver {s s' : State} (h : s.SameFilterSide s') (b b' : Bit) :
    (s.deliver b).SameFilterSide (s'.deliver b') := by
  simpa [State.SameFilterSide, State.deliver_frame] using h

/-- Pushing one sample into both keeps the agreement. -/
theorem State.SameFilterSide.pushSample {s s' : State} (h : s.SameFilterSide s') (b : Bit) :
    (s.pushSample b).SameFilterSide (s'.pushSample b) := by
  obtain ⟨hfir, hskip, hended⟩ := h
  simp [State.SameFilterSide, State.pushSample_filterSide, hfir, hskip, hended]

/-- Ending both streams keeps the agreement. -/
theorem State.SameFilterSide.endOfStream {s s' : State} (h : s.SameFilterSide s') :
    s.endOfStream.SameFilterSide s'.endOfStream := by
  obtain ⟨hfir, hskip, -⟩ := h
  simp [State.SameFilterSide, State.endOfStream_frame, hfir, hskip]

/-- Two states that agree are both ended or both open, so effects that agree may be guarded by `ended`. -/
theorem State.SameFilterSide.unlessEnded {s s' e e' : State} (h : s.SameFilterSide s') (heffect : e.SameFilterSide e') :
    (s.unlessEnded e).SameFilterSide (s'.unlessEnded e') := by
  have ⟨_, _, hended⟩ := h
  cases hs : s.ended with
  | true =>
    rw [State.unlessEnded_of_ended s e hs, State.unlessEnded_of_ended s' e' (hended ▸ hs)]
    exact h.drive none none
  | false =>
    rw [State.unlessEnded_of_open s e hs, State.unlessEnded_of_open s' e' (hended ▸ hs)]
    exact heffect

/-- Every operation keeps the agreement of two states with the same `P`. -/
theorem State.SameFilterSide.exec {s s' t t' : State} {i : Instr} (h : s.SameFilterSide s') (hpar : s.par = s'.par)
    (ht : exec i s = .next t) (ht' : exec i s' = .next t') : t.SameFilterSide t' := by
  cases i with
  | reset =>
    cases ht; cases ht'
    simp [State.SameFilterSide, hpar]
  | idle =>
    cases ht; cases ht'
    exact h.drive none none
  | push data =>
    cases ht; cases ht'
    exact h.unlessEnded (h.pushSample (sampleOf data))
  | sym data =>
    cases ht; cases ht'
    exact h.unlessEnded (h.deliver (symbolOf data) (symbolOf data))
  | endStream =>
    cases ht; cases ht'
    exact h.unlessEnded h.endOfStream

/-- Settles O17: agreement of the filter side, kept by each of the five operations. -/
theorem noFeedbackIntoTheFilter : Obligations.NoFeedbackIntoTheFilter := by
  intro s s' t t' i hpar hfir hskip hended ht ht'
  exact State.SameFilterSide.exec ⟨hfir, hskip, hended⟩ hpar ht ht'

end Sys2Proof.Machine
end

section
/-! What a call of the decoder does to `lvl`, and what it keeps of the ranges of the decoder registers (spec/42_decoder.md R116 to
R123, spec/10_state.md R37). -/

namespace Sys2Proof.Machine

/-- A call either accepts a confirmed edge and adopts the level of its symbol, or leaves `lvl` and emits nothing
(spec/42_decoder.md R117 to R119). -/
theorem decProcess_edge_or_keeps_lvl (P : Params) (d : DecoderState) (a : Bit) (la0 la1 : Option Bit) :
    (la0 = some a ∧ la1 = some a ∧ (decProcess P d a la0 la1).1.lvl = levelOf a) ∨
    ((decProcess P d a la0 la1).1.lvl = d.lvl ∧ (decProcess P d a la0 la1).2 = none) := by
  rcases decCase_cases P d a la0 la1 with ⟨_, h⟩ | ⟨_, _, h⟩ | ⟨_, _, _, h⟩ | ⟨_, h0, h1, h⟩
  · exact .inr (by simp [decProcess, DecoderState.advance, h])
  · exact .inr (by simp [decProcess, DecoderState.advance, h])
  · exact .inr (by simp [decProcess, DecoderState.advance, h])
  · exact .inl ⟨(confirms_iff la0 a).1 h0, (confirms_iff la1 a).1 h1, by simp [h, DecoderState.acceptEdge_lvl]⟩

/-- Without a second lookahead symbol no edge is confirmed, so `lvl` stands. -/
theorem decProcess_lvl_of_no_second (P : Params) (d : DecoderState) (a : Bit) (la0 : Option Bit) :
    (decProcess P d a la0 none).1.lvl = d.lvl := by
  rcases decProcess_edge_or_keeps_lvl P d a la0 none with ⟨_, habsent, _⟩ | ⟨hkeeps, _⟩
  · exact absurd habsent (Option.some_ne_none a).symm
  · exact hkeeps

/-- A call that emits leaves a known level. -/
theorem decProcess_lvl_ne_unknown_of_emission (P : Params) (d : DecoderState) (a : Bit) (la0 la1 : Option Bit)
    (h : (decProcess P d a la0 la1).2 ≠ none) : (decProcess P d a la0 la1).1.lvl ≠ .unknown := by
  rcases decProcess_edge_or_keeps_lvl P d a la0 la1 with ⟨_, _, hedge⟩ | ⟨_, hnone⟩
  · exact hedge ▸ levelOf_ne_unknown a
  · exact absurd hnone h

/-- What the invariant says of the decoder registers alone. -/
structure DecoderState.InRange (P : Params) (d : DecoderState) : Prop where
  counter : d.counter ≤ P.cntMax
  pos : ∀ W, P.posW = some W → d.pos < 2 ^ W
  last : d.lvl = .unknown → d.last = none

theorem DecoderState.reset_inRange (P : Params) : DecoderState.reset.InRange P where
  counter := Nat.zero_le _
  pos W _ := Nat.two_pow_pos W
  last _ := rfl

theorem DecoderState.unchanged_counter_le (P : Params) (d : DecoderState) : (d.unchanged P).counter ≤ P.cntMax := by
  rcases Nat.lt_or_ge (satAdd P d.counter 1) 10 with hcount | hfallback
  · rw [DecoderState.unchanged_of_lt P d hcount]
    exact satAdd_le P d.counter 1
  · rw [DecoderState.unchanged_of_le P d hfallback]
    exact Nat.zero_le _

/-- Whatever the counter was, a call leaves it within `CNT_MAX`: it saturates or is cleared. -/
theorem decProcess_counter_le (P : Params) (d : DecoderState) (a : Bit) (la0 la1 : Option Bit) :
    (decProcess P d a la0 la1).1.counter ≤ P.cntMax := by
  rw [decProcess_counter]
  rcases decCase_cases P d a la0 la1 with ⟨_, h⟩ | ⟨_, _, h⟩ | ⟨_, _, _, h⟩ | ⟨_, _, _, h⟩
  · exact h ▸ DecoderState.unchanged_counter_le P d
  · exact h ▸ satAdd_le P d.counter 1
  · exact h ▸ satAdd_le P d.counter 2
  · simp [h, DecoderState.acceptEdge_counter]

/-- A call writes `last` only when it leaves a known level: the fallback needs a level that sees the symbol, and an accepted edge
names one. -/
theorem decProcess_last_of_unknown (P : Params) (d : DecoderState) (a : Bit) (la0 la1 : Option Bit)
    (hunknown : (decProcess P d a la0 la1).1.lvl = .unknown) : d.lvl = .unknown ∧ (decProcess P d a la0 la1).1.last = d.last := by
  rw [decProcess_lvl] at hunknown
  rw [decProcess_last]
  rcases decCase_cases P d a la0 la1 with ⟨hsees, h⟩ | ⟨_, _, h⟩ | ⟨_, _, _, h⟩ | ⟨_, _, _, h⟩
  · have hlvl : d.lvl = .unknown := by simpa [h] using hunknown
    simp [hlvl] at hsees
  · simpa [h] using hunknown
  · simpa [h] using hunknown
  · exact absurd (by simpa [h, DecoderState.acceptEdge_lvl] using hunknown) (levelOf_ne_unknown a)

/-- Every call keeps the ranges of the decoder registers. -/
theorem DecoderState.InRange.decProcess {P : Params} {d : DecoderState} (hd : d.InRange P) (a : Bit) (la0 la1 : Option Bit) :
    (decProcess P d a la0 la1).1.InRange P where
  counter := decProcess_counter_le P d a la0 la1
  pos W hW := by
    rw [decProcess_pos]
    exact nextPos_lt P d.pos W hW
  last hunknown := by
    have ⟨hbefore, hlast⟩ := decProcess_last_of_unknown P d a la0 la1 hunknown
    exact hlast.trans (hd.last hbefore)

/-- Draining keeps the ranges of the decoder registers. -/
theorem DecoderState.InRange.decDrain {s : State} (hd : s.dec.InRange s.par) : (decDrain s).1.dec.InRange s.par := by
  rcases winN_cases s.winN with h | h | h
  · rw [decDrain_empty s h]
    exact hd
  · rw [decDrain_half s h]
    exact hd.decProcess s.win[0] none none
  · rw [decDrain_full s h]
    exact (hd.decProcess s.win[0] (some s.win[1]) none).decProcess s.win[1] none none

/-- Draining leaves `lvl`. -/
theorem decDrain_lvl (s : State) : (decDrain s).1.dec.lvl = s.dec.lvl := by
  rcases winN_cases s.winN with h | h | h
  · rw [decDrain_empty s h]
  · rw [decDrain_half s h, decProcess_lvl_of_no_second]
  · rw [decDrain_full s h, decProcess_lvl_of_no_second, decProcess_lvl_of_no_second]

end Sys2Proof.Machine
end

section
/-! The machine's own parameter record meets spec/00_scope.md R7 and R8. -/

namespace Sys2Proof.Config

theorem kt1_admissible : kt1.Admissible := by decide +kernel

/-- The open kernel is narrowed to what spec/00_scope.md R8 admits. -/
theorem kernel_admissible : kernel.Admissible := by
  unfold kernel
  split
  · assumption
  · exact kt1_admissible

theorem params_wellFormed : params.WellFormed := ⟨kernel_admissible, by decide⟩

end Sys2Proof.Config
end

section
/-! The invariant (spec/10_state.md R37): it holds after reset, and every effect an operation may have keeps it. -/

namespace Sys2Proof.Machine

/-- What holds of the state that only drives no output, and of the effect, holds of the effect guarded by `ended`
(spec/43_stream_ops.md R146). -/
theorem State.unlessEnded_of_both (p : State → Prop) {s e : State} (hsilent : p (s.drive none)) (heffect : p e) :
    p (s.unlessEnded e) := by
  cases hs : s.ended with
  | true => exact (State.unlessEnded_of_ended s e hs).symm ▸ hsilent
  | false => exact (State.unlessEnded_of_open s e hs).symm ▸ heffect

namespace State

variable {s : State}

theorem Inv.dec_inRange (h : s.Inv) : s.dec.InRange s.par := ⟨h.counter, h.pos, h.last⟩

theorem resetOf_inv {P : Params} (hP : P.WellFormed) : (State.resetOf P).Inv where
  params := hP
  counter := (DecoderState.reset_inRange P).counter
  skip := Nat.le_refl _
  pos := (DecoderState.reset_inRange P).pos
  last _ := rfl
  out h := absurd rfl h
  filling _ _ := rfl

/-- The words presented are no register. -/
theorem Inv.withCmds (h : s.Inv) (ws : List CmdWord) : State.Inv { s with cmds := ws } := { h with }

/-- The invariant does not speak of the filter's registers. -/
theorem Inv.withFir (h : s.Inv) (f : FilterState) : State.Inv { s with fir := f } := { h with }

theorem Inv.toReset (h : s.Inv) : s.toReset.Inv := (resetOf_inv h.params).withCmds s.cmds

theorem Inv.driveNone (h : s.Inv) : (s.drive none).Inv := { h with out := fun hout => absurd rfl hout }

/-- Delivering a symbol: while the window fills the decoder stands, and a full window stays full. -/
theorem Inv.deliver (h : s.Inv) (b : Bit) : (s.deliver b).Inv := by
  rcases winN_cases s.winN with hw | hw | hw
  · have hreset (hopen : s.ended = false) : s.dec = DecoderState.reset := h.filling hopen (by simp [hw])
    rw [State.deliver, decAccept_empty s b hw]
    exact { h with out := fun hout => absurd rfl hout, filling := fun hopen _ => hreset hopen }
  · rw [State.deliver, decAccept_half s b hw]
    exact { h with out := fun hout => absurd rfl hout, filling := fun _ hn => absurd rfl hn }
  · have hdec := h.dec_inRange.decProcess s.win[0] (some s.win[1]) (some b)
    rw [State.deliver, decAccept_full s b hw]
    exact {
      params := h.params
      counter := hdec.counter
      skip := h.skip
      pos := hdec.pos
      last := hdec.last
      out := decProcess_lvl_ne_unknown_of_emission s.par s.dec s.win[0] (some s.win[1]) (some b)
      filling := fun _ hn => absurd hw hn }

/-- A PUSH, dropped or kept. -/
theorem Inv.pushSample (h : s.Inv) (b : Bit) : (s.pushSample b).Inv := by
  rcases Nat.eq_zero_or_pos s.skipCnt with hkept | hdropped
  · rw [State.pushSample_kept s b hkept]
    exact (h.withFir (s.fir.push b)).deliver _
  · rw [State.pushSample_dropped s b hdropped]
    exact { h with skip := (Nat.sub_le _ 1).trans h.skip, out := fun hout => absurd rfl hout }

/-- END closes the stream, so nothing is asked of an unfilled window any more. -/
theorem Inv.endOfStream (h : s.Inv) : s.endOfStream.Inv := by
  obtain ⟨hpar, -, hskip, -, -⟩ := s.endOfStream_frame
  have hdec : s.endOfStream.dec.InRange s.endOfStream.par := hpar ▸ h.dec_inRange.decDrain
  exact {
    params := hpar ▸ h.params
    counter := hdec.counter
    skip := hpar ▸ hskip ▸ h.skip
    pos := hdec.pos
    last := hdec.last
    out := fun hout => absurd rfl hout
    filling := fun hopen _ => absurd hopen (by simp) }

theorem Inv.unlessEnded {e : State} (h : s.Inv) (heffect : e.Inv) : (s.unlessEnded e).Inv :=
  State.unlessEnded_of_both State.Inv h.driveNone heffect

/-- Every operation keeps the invariant. -/
theorem Inv.exec {t : State} {i : Instr} (h : s.Inv) (ht : exec i s = .next t) : t.Inv := by
  cases i with
  | reset => cases ht; exact h.toReset
  | idle => cases ht; exact h.driveNone
  | push data => cases ht; exact h.unlessEnded (h.pushSample (sampleOf data))
  | sym data => cases ht; exact h.unlessEnded (h.deliver (symbolOf data))
  | endStream => cases ht; exact h.unlessEnded h.endOfStream

end State

/-- Settles O53: fetching a word touches no register, and the operation it selects keeps the invariant. -/
theorem everyStepKeepsTheInvariant : Obligations.EveryStepKeepsTheInvariant := by
  intro s t h ht
  rw [step, State.fetch_registers] at ht
  exact (h.withCmds s.cmds.tail).exec ht

/-- Settles O52: the reset state of any admissible record, the machine's own among them. -/
theorem resetStateSatisfiesTheInvariant : Obligations.ResetStateSatisfiesTheInvariant :=
  ⟨State.resetOf_inv Config.params_wellFormed, fun _ hP => State.resetOf_inv hP⟩

end Sys2Proof.Machine
end

section
/-! What an operation does to `ended`, `lvl`, the discard and `P` (spec/10_state.md R27, R30, R33, R37). -/

namespace Sys2Proof.Machine

@[simp] theorem State.unlessEnded_ended (s e : State) : (s.unlessEnded e).ended = (s.ended || e.ended) := by
  cases hs : s.ended with
  | true => simp [State.unlessEnded_of_ended s e hs, hs]
  | false => simp [State.unlessEnded_of_open s e hs]

/-- While the stream is ended every operation but RESET only drives no output (spec/43_stream_ops.md R145, R146). -/
theorem exec_of_ended (s : State) (i : Instr) (hs : s.ended = true) (hi : i ≠ .reset) : exec i s = .next (s.drive none) := by
  cases i with
  | reset => exact absurd rfl hi
  | idle => rfl
  | push data => rw [exec_push, State.unlessEnded_of_ended _ _ hs]
  | sym data => rw [exec_sym, State.unlessEnded_of_ended _ _ hs]
  | endStream => rw [exec_endStream, State.unlessEnded_of_ended _ _ hs]

/-- `ended` after each operation. -/
theorem exec_ended_iff {s t : State} {i : Instr} (ht : exec i s = .next t) :
    t.ended = true ↔ i = .endStream ∨ (s.ended = true ∧ i ≠ .reset) := by
  cases i with
  | reset => cases ht; simp
  | idle => cases ht; simp
  | push data => cases ht; simp [State.pushSample_filterSide]
  | sym data => cases ht; simp [State.deliver_frame]
  | endStream => cases ht; simp

/-- Settles O13, operation by operation: END sets `ended`, RESET clears it, and no other operation writes it. -/
theorem endedIsSetByEndAndClearedByReset : Obligations.EndedIsSetByEndAndClearedByReset :=
  ⟨fun _ _ _ ht => exec_ended_iff ht, exec_of_ended⟩

/-- A delivery that changes `lvl` found a full window whose two symbols equal the delivered one, and adopts their level. -/
theorem State.deliver_lvl_changed (s : State) (b : Bit) (h : (s.deliver b).dec.lvl ≠ s.dec.lvl) :
    s.winN = 2 ∧ s.win[1] = s.win[0] ∧ (s.deliver b).win[1] = s.win[0] ∧ (s.deliver b).dec.lvl = levelOf s.win[0] := by
  rcases winN_cases s.winN with hw | hw | hw
  · exact absurd (by simp [State.deliver, decAccept_empty s b hw]) h
  · exact absurd (by simp [State.deliver, decAccept_half s b hw]) h
  · rcases decProcess_edge_or_keeps_lvl s.par s.dec s.win[0] (some s.win[1]) (some b) with ⟨h0, h1, hlvl⟩ | ⟨hkeeps, _⟩
    · rw [State.deliver, decAccept_full s b hw]
      exact ⟨hw, Option.some.inj h0, Option.some.inj h1, hlvl⟩
    · exact absurd (by rw [State.deliver, decAccept_full s b hw]; exact hkeeps) h

/-- A PUSH that changes `lvl` was kept, and so delivered a symbol as `State.deliver_lvl_changed` says. -/
theorem State.pushSample_lvl_changed (s : State) (b : Bit) (h : (s.pushSample b).dec.lvl ≠ s.dec.lvl) :
    s.winN = 2 ∧ s.win[1] = s.win[0] ∧ (s.pushSample b).win[1] = s.win[0] ∧
      (s.pushSample b).dec.lvl = levelOf s.win[0] := by
  rcases Nat.eq_zero_or_pos s.skipCnt with hkept | hdropped
  · rw [State.pushSample_kept s b hkept] at h ⊢
    exact State.deliver_lvl_changed { s with fir := s.fir.push b } _ h
  · exact absurd (by rw [State.pushSample_dropped s b hdropped]) h

/-- Settles O34: an ended stream keeps `lvl`, and so do IDLE and END; PUSH and SYM change it by a delivery only. -/
theorem levelChangesOnlyByConfirmedEdgeOrReset : Obligations.LevelChangesOnlyByConfirmedEdgeOrReset := by
  intro s t i ht hi hlvl
  cases hs : s.ended with
  | true =>
    rw [exec_of_ended s i hs hi] at ht
    cases ht
    exact absurd rfl hlvl
  | false =>
    cases i with
    | reset => exact absurd rfl hi
    | idle => cases ht; exact absurd rfl hlvl
    | push data =>
      rw [exec_push, State.unlessEnded_of_open _ _ hs] at ht
      cases ht
      exact ⟨⟨data, .inl rfl⟩, rfl, s.pushSample_lvl_changed _ hlvl⟩
    | sym data =>
      rw [exec_sym, State.unlessEnded_of_open _ _ hs] at ht
      cases ht
      exact ⟨⟨data, .inr rfl⟩, rfl, s.deliver_lvl_changed _ hlvl⟩
    | endStream =>
      rw [exec_endStream, State.unlessEnded_of_open _ _ hs] at ht
      cases ht
      exact absurd (decDrain_lvl s) hlvl

namespace State.QuietWhileDiscarding

variable {s : State}

/-- A PUSH that leaves outputs to discard was dropped, so it delivered nothing. -/
theorem pushSample (h : s.QuietWhileDiscarding) (b : Bit) : (s.pushSample b).QuietWhileDiscarding := by
  intro hleft
  have hbefore : 0 < s.skipCnt := by
    rw [(s.pushSample_filterSide b).2.1] at hleft
    omega
  rw [State.pushSample_dropped s b hbefore]
  exact h hbefore

/-- While outputs are being discarded END finds an empty window. -/
theorem endOfStream (h : s.QuietWhileDiscarding) : s.endOfStream.QuietWhileDiscarding := by
  obtain ⟨-, -, hskip, -, -⟩ := s.endOfStream_frame
  intro hleft
  have hquiet := h (hskip ▸ hleft)
  simpa [State.endOfStream, decDrain_empty s hquiet.1] using hquiet

theorem unlessEnded {e : State} (h : s.QuietWhileDiscarding) (heffect : e.QuietWhileDiscarding) :
    (s.unlessEnded e).QuietWhileDiscarding :=
  State.unlessEnded_of_both State.QuietWhileDiscarding h heffect

end State.QuietWhileDiscarding

theorem State.resetOf_quietWhileDiscarding (P : Params) : (State.resetOf P).QuietWhileDiscarding := fun _ => ⟨rfl, rfl⟩

/-- Settles O54: RESET gives the reset registers, and each operation but SYM delivers nothing while outputs are discarded. -/
theorem decoderIsQuietWhileDiscarding : Obligations.DecoderIsQuietWhileDiscarding := by
  refine ⟨State.resetOf_quietWhileDiscarding, fun s t i h hsym ht => ?_⟩
  cases i with
  | reset => cases ht; exact State.resetOf_quietWhileDiscarding s.par
  | idle => cases ht; exact h
  | push data => cases ht; exact h.unlessEnded (h.pushSample (sampleOf data))
  | sym data => exact absurd rfl (hsym data)
  | endStream => cases ht; exact h.unlessEnded h.endOfStream

theorem step_par {s t : State} (ht : step s = .next t) : t.par = s.par := by
  rw [step, State.fetch_registers] at ht
  exact (exec_par_cmds _ _ _ ht).1

theorem runSteps_par (n : Nat) (s : State) : (runSteps n s).1.par = s.par := by
  induction n generalizing s with
  | zero => rfl
  | succ n ih =>
    unfold runSteps
    cases hstep : step s with
    | next t => exact (ih t).trans (step_par hstep)
    | fault _ => rfl
    | refused _ => rfl

/-- Settles O56: a step keeps `P`, and a run is its steps one after the other. -/
theorem noRunChangesTheParameters : Obligations.NoRunChangesTheParameters :=
  ⟨fun _ _ ht => step_par ht, fun s ws => runSteps_par ws.length (s.presenting ws)⟩

end Sys2Proof.Machine
end

section
/-! The ring after any samples from reset (spec/10_state.md R21, R22). -/

namespace Sys2Proof.Machine

/-- The filter after the samples `x` from reset, the first one first. -/
def FilterState.afterSamples (x : List Bit) : FilterState := x.foldl FilterState.push FilterState.reset

theorem FilterState.afterSamples_append (x : List Bit) (b : Bit) :
    FilterState.afterSamples (x ++ [b]) = (FilterState.afterSamples x).push b := by
  simp [FilterState.afterSamples]

/-- The cursor counts the samples modulo 16. -/
theorem FilterState.afterSamples_cursor (x : List Bit) : (FilterState.afterSamples x).cursor = Fin.ofNat 16 x.length := by
  induction x using List.reverseRecOn with
  | nil => rfl
  | append_singleton x b ih =>
    rw [afterSamples_append, push_cursor, ih]
    apply Fin.ext
    simp [Fin.val_add]

/-- Among sixteen numbers from `m` on only `m` itself names the slot of `m`. -/
theorem ofNat_sixteen_ne {m n : Nat} (hlt : m < n) (hn : n < m + 16) : Fin.ofNat 16 n ≠ Fin.ofNat 16 m := by
  intro h
  have hval : n % 16 = m % 16 := by simpa using congrArg Fin.val h
  omega

/-- Sixteen numbers from the count of samples on name the sixteen slots; the last of them, sixteen after a sample's index, names the
slot that holds that sample. -/
theorem FilterState.afterSamples_slot (x : List Bit) (n : Nat) (hlo : x.length ≤ n) (hhi : n < x.length + 16) :
    (FilterState.afterSamples x).slot (Fin.ofNat 16 n) = if 16 ≤ n then x.getD (n - 16) false else false := by
  induction x using List.reverseRecOn with
  | nil =>
    have hbefore : ¬ 16 ≤ n := by simpa using hhi
    simp [FilterState.afterSamples, hbefore]
  | append_singleton x b ih =>
    rw [List.length_append, List.length_singleton] at hlo hhi
    rw [afterSamples_append]
    rcases Nat.lt_or_ge n (x.length + 16) with hold | hnew
    · have hother : Fin.ofNat 16 n ≠ (afterSamples x).cursor := by
        rw [afterSamples_cursor]
        exact ofNat_sixteen_ne hlo hold
      rw [push_slot_other _ _ _ hother, ih (Nat.le_of_succ_le hlo) hold]
      split
      · rw [List.getD_append _ _ _ _ (by omega)]
      · rfl
    · obtain rfl : n = x.length + 16 := by omega
      have hcursor : Fin.ofNat 16 (x.length + 16) = (afterSamples x).cursor := by
        rw [afterSamples_cursor]
        apply Fin.ext
        simp
      rw [if_pos (Nat.le_add_left 16 x.length), hcursor, push_slot_cursor]
      simp

/-- Settles O19: the slot under the cursor takes each new sample, sixteen numbers after the one it replaces. -/
theorem ringHoldsTheLastSixteenSamples : Obligations.RingHoldsTheLastSixteenSamples := by
  intro x n hhi hlo
  have hcursor : (FilterState.afterSamples x).cursor.val = x.length % 16 := by
    rw [FilterState.afterSamples_cursor, Fin.val_ofNat]
  exact ⟨hcursor, FilterState.afterSamples_slot x n hlo hhi⟩

end Sys2Proof.Machine
end

section
/-! Repeating RESET, END or IDLE (spec/20_memory.md R54). -/

namespace Sys2Proof.Machine

/-- RESET reads `P` and the words to come only, and it writes neither. -/
theorem State.toReset_toReset (s : State) : s.toReset.toReset = s.toReset := rfl

/-- To drive no output changes nothing in a state that drives none. -/
theorem State.drive_none_of_out (s : State) (hout : s.out = none) : s.drive none = s := by
  rw [← hout]
  rfl

/-- END drives no output, whether the stream was open or ended (spec/43_stream_ops.md R144, R146). -/
theorem exec_endStream_out {s t : State} (ht : exec .endStream s = .next t) : t.out = none := by
  rw [exec_endStream] at ht
  cases ht
  exact State.unlessEnded_of_both (fun u => u.out = none) rfl rfl

/-- Settles O14: RESET gives the reset state of the same `P` and words; END leaves an ended stream without output and IDLE a state
without output, and there the same operation only drives no output again. -/
theorem resetAndEndAreIdempotent : Obligations.ResetAndEndAreIdempotent := by
  refine ⟨fun s t ht => ?reset, fun s t ht => ?endStream, fun s t ht => ?idle⟩
  case reset =>
    cases ht
    rw [exec_reset, State.toReset_toReset]
  case endStream =>
    have hended : t.ended = true := (exec_ended_iff ht).2 (.inl rfl)
    rw [exec_of_ended t .endStream hended Instr.noConfusion, t.drive_none_of_out (exec_endStream_out ht)]
  case idle =>
    cases ht
    rw [exec_idle, State.drive_none_of_out _ (s.drive_out none)]

end Sys2Proof.Machine
end

section
/-! The fields of a command word (spec/30_encoding.md R70): every word is its three operation bits `cw[10:8]` followed by its data
byte `cw[7:0]`, and the decoder, the encoder and the opcode table are read through these two. -/

namespace Sys2Proof

/-- The word with operation bits `op` in `cw[10:8]` and data byte `data` in `cw[7:0]` (spec/30_encoding.md R70). -/
def commandWord (op : BitVec 3) (data : Byte) : CmdWord := op ++ data

section
variable (op op' : BitVec 3) (data data' : Byte)

@[simp] theorem rstField_commandWord : rstField (commandWord op data) = op.getLsbD 2 := by
  rw [rstField, commandWord, BitVec.getLsbD_append]
  rfl

@[simp] theorem cmdField_commandWord : cmdField (commandWord op data) = op.extractLsb' 0 2 :=
  BitVec.extractLsb'_append_eq_of_le (Nat.le_refl 8)

@[simp] theorem dataField_commandWord : dataField (commandWord op data) = data :=
  BitVec.extractLsb'_append_eq_right

@[simp] theorem extractLsb'_commandWord : (commandWord op data).extractLsb' 8 3 = op :=
  BitVec.extractLsb'_append_eq_left

theorem getLsbD_commandWord_ten : (commandWord op data).getLsbD 10 = op.getLsbD 2 := rstField_commandWord op data

theorem getLsbD_commandWord_zero : (commandWord op data).getLsbD 0 = data.getLsbD 0 := by
  rw [commandWord, BitVec.getLsbD_append]
  rfl

theorem commandWord_and : commandWord op data &&& commandWord op' data' = commandWord (op &&& op') (data &&& data') :=
  BitVec.and_append

theorem commandWord_and_operationBits : commandWord op data &&& commandWord op' 0 = commandWord (op &&& op') 0 :=
  (commandWord_and op op' data 0).trans (congrArg _ BitVec.and_zero)

end

theorem commandWord_fields (cw : CmdWord) : commandWord (cw.extractLsb' 8 3) (dataField cw) = cw :=
  BitVec.extractLsb'_append_extractLsb'_eq_extractLsb' (by decide) |>.trans (BitVec.extractLsb'_eq_self)

theorem exists_commandWord (cw : CmdWord) : ∃ op data, cw = commandWord op data := ⟨_, _, (commandWord_fields cw).symm⟩

/-- The operation bits of the five operations: RESET has `cw[10]` set, the others have one code each (spec/30_encoding.md R71). -/
theorem operationBits_cases (op : BitVec 3) :
    op.getLsbD 2 = true ∨ op = 0b000#3 ∨ op = 0b001#3 ∨ op = 0b010#3 ∨ op = 0b011#3 := by
  revert op
  decide

/-! What the decoder makes of each of them (spec/30_encoding.md R71). -/

theorem decode_commandWord_reset {op : BitVec 3} (hrst : op.getLsbD 2 = true) (data : Byte) :
    decode (commandWord op data) = .reset := by
  simp [decode, hrst]

@[simp] theorem decode_commandWord_idle (data : Byte) : decode (commandWord 0b000#3 data) = .idle := by simp [decode]

@[simp] theorem decode_commandWord_push (data : Byte) : decode (commandWord 0b001#3 data) = .push data := by simp [decode]

@[simp] theorem decode_commandWord_sym (data : Byte) : decode (commandWord 0b010#3 data) = .sym data := by simp [decode]

@[simp] theorem decode_commandWord_endStream (data : Byte) : decode (commandWord 0b011#3 data) = .endStream := by simp [decode]

end Sys2Proof
end

section
/-! Decoder and encoder invert each other up to the ignored bits (spec/30_encoding.md R79, R81). -/

namespace Sys2Proof

theorem decode_encode (i : Instr) : decode (encode i) = i := by
  cases i with
  | reset => exact decode_commandWord_reset rfl 0
  | idle => exact decode_commandWord_idle 0
  | push data => exact decode_commandWord_push data
  | sym data => exact decode_commandWord_sym data
  | endStream => exact decode_commandWord_endStream 0

/-- A command word is below 2^11, so eleven or more bits of it are the word itself. -/
theorem decodeTableWord_toNat {nbits : Nat} (hbits : 11 ≤ nbits) (cw : CmdWord) :
    decodeTableWord nbits cw.toNat = some (decode cw) := by
  have hword : tableWord nbits cw.toNat = cw.toNat :=
    Nat.mod_eq_of_lt (cw.isLt.trans_le (Nat.pow_le_pow_right (by decide) hbits))
  simp only [decodeTableWord, hword, decodeNumber, if_pos cw.isLt, BitVec.ofNat_toNat, BitVec.setWidth_eq]

/-- The data byte of PUSH and SYM is kept whole; of the other words the significant bits are operation bits, which the encoder
sets to the operation's own. -/
theorem encode_decode_and_significantBits (cw : CmdWord) :
    encode (decode cw) &&& significantBits cw = cw &&& significantBits cw := by
  obtain ⟨op, data, rfl⟩ := exists_commandWord cw
  unfold significantBits
  rcases operationBits_cases op with hrst | rfl | rfl | rfl | rfl
  · simp only [decode_commandWord_reset hrst]
    have hop : op &&& 0b100#3 = 0b100#3 := by revert op; decide
    calc encode .reset &&& 0x400 = commandWord 0b100#3 0 := rfl
      _ = commandWord op data &&& 0x400 := by rw [← hop]; exact (commandWord_and_operationBits op 0b100#3 data).symm
  · simp only [decode_commandWord_idle]
    exact (commandWord_and_operationBits 0b000#3 0b111#3 data).symm
  · simp only [decode_commandWord_push]
    rfl
  · simp only [decode_commandWord_sym]
    rfl
  · simp only [decode_commandWord_endStream]
    exact (commandWord_and_operationBits 0b011#3 0b111#3 data).symm

/-- Settles O1: decoding inverts the encoder, and the encoder keeps every significant bit of a decoded word. -/
theorem decodeAndEncodeAgree : Obligations.DecodeAndEncodeAgree := by
  refine ⟨fun i _ => ?operation, fun cw => ⟨encode_decode_and_significantBits cw, decode_encode (decode cw)⟩⟩
  have htable {nbits : Nat} (hbits : 11 ≤ nbits) : decodeTableWord nbits (encode i).toNat = some i := by
    rw [decodeTableWord_toNat hbits, decode_encode]
  exact ⟨decode_encode i, htable (by decide), htable (by decide)⟩

end Sys2Proof
end

section
/-! A step depends on the significant bits of its word only (spec/30_encoding.md R72, R73, R79). -/

namespace Sys2Proof.Machine

/-- Of the data byte an operation reads at most the operand bit. -/
theorem exec_decode_commandWord_congr (op : BitVec 3) {data data' : Byte} (hoperand : data.getLsbD 0 = data'.getLsbD 0)
    (s : State) : exec (decode (commandWord op data)) s = exec (decode (commandWord op data')) s := by
  rcases operationBits_cases op with hrst | rfl | rfl | rfl | rfl
  · simp only [decode_commandWord_reset hrst]
  · simp only [decode_commandWord_idle]
  · simp only [decode_commandWord_push, exec_push, sampleOf, hoperand]
  · simp only [decode_commandWord_sym, exec_sym, symbolOf, hoperand]
  · simp only [decode_commandWord_endStream]

/-- A step with `cw` presented first runs its operation on the state that keeps the other words. -/
theorem step_presented (s : State) (cw : CmdWord) (rest : List CmdWord) :
    step { s with cmds := cw :: rest } = exec (decode cw) { s with cmds := rest } :=
  step_of_cmds _ cw rest rfl

/-- Settles O5: two RESET words, two IDLE words or two END words decode alike, and any two words that differ in `cw[7:1]` only run
alike. -/
theorem ignoredBitsHaveNoEffect : Obligations.IgnoredBitsHaveNoEffect := by
  intro s cw cw' rest h
  rw [step_presented, step_presented]
  obtain ⟨op, data, rfl⟩ := exists_commandWord cw
  obtain ⟨op', data', rfl⟩ := exists_commandWord cw'
  simp only [getLsbD_commandWord_ten, extractLsb'_commandWord, getLsbD_commandWord_zero] at h
  rcases h with ⟨hrst, hrst'⟩ | ⟨rfl, rfl | rfl⟩ | ⟨rfl, hoperand⟩
  · rw [decode_commandWord_reset hrst, decode_commandWord_reset hrst']
  · simp only [BitVec.ofNat_eq_ofNat, decode_commandWord_idle]
  · simp only [BitVec.ofNat_eq_ofNat, decode_commandWord_endStream]
  · exact exec_decode_commandWord_congr op hoperand _

end Sys2Proof.Machine
end

section
/-! The opcode table against the decoder (spec/30_encoding.md R71). -/

namespace Sys2Proof

/-- No row looks at the data byte. -/
theorem OpRow.selects_commandWord {r : OpRow} (hr : r ∈ opcodeTable) (op : BitVec 3) (data : Byte) :
    r.selects (commandWord op data) = r.selects (commandWord op 0) := by
  have hmask : r.mask = commandWord (r.mask.extractLsb' 8 3) 0 := by revert r; decide
  rw [OpRow.selects, OpRow.selects, hmask, commandWord_and_operationBits, commandWord_and_operationBits]

/-- A word, encoded or not, selects exactly the rows that carry the mnemonic of its operation. -/
theorem OpRow.selects_eq_mnemonic {r : OpRow} (hr : r ∈ opcodeTable) (cw : CmdWord) :
    r.selects cw = (r.mnemonic == (decode cw).mnemonic) := by
  obtain ⟨op, data, rfl⟩ := exists_commandWord cw
  rcases operationBits_cases op with hrst | rfl | rfl | rfl | rfl
  · rw [OpRow.selects_commandWord hr, decode_commandWord_reset hrst]
    revert r op
    decide
  · rw [OpRow.selects_commandWord hr, decode_commandWord_idle]
    exact Laws.SelectsRow.idle r hr
  · rw [decode_commandWord_push]
    exact Laws.SelectsRow.push data r hr
  · rw [decode_commandWord_sym]
    exact Laws.SelectsRow.sym data r hr
  · rw [OpRow.selects_commandWord hr, decode_commandWord_endStream]
    exact Laws.SelectsRow.endStream r hr

/-- The table has one row of each operation's mnemonic. -/
theorem opcodeTable_filter_mnemonic (i : Instr) :
    (opcodeTable.filter fun r => r.mnemonic == i.mnemonic).map OpRow.mnemonic = [i.mnemonic] := by
  cases i <;> rfl

/-- A word that decodes to an operation with a data byte has the data byte in its low bits. -/
theorem decode_data_eq_dataField {cw : CmdWord} {data : Byte} (h : decode cw = .push data ∨ decode cw = .sym data) :
    data = dataField cw := by
  obtain ⟨op, byte, rfl⟩ := exists_commandWord cw
  rw [dataField_commandWord]
  rcases operationBits_cases op with hrst | rfl | rfl | rfl | rfl
  · simp [decode_commandWord_reset hrst] at h
  · simp at h
  · simpa [eq_comm] using h
  · simpa [eq_comm] using h
  · simp at h

/-- Settles O2: the selected rows are those with the mnemonic of the decoded operation, of which the table has one. -/
theorem everyWordSelectsExactlyOneRow : Obligations.EveryWordSelectsExactlyOneRow := by
  refine ⟨rfl, fun cw => ?row, fun cw data h => ?push, fun cw data h => ?sym⟩
  case row =>
    have hfilter : opcodeTable.filter (fun r => r.selects cw) = opcodeTable.filter fun r => r.mnemonic == (decode cw).mnemonic :=
      List.filter_congr fun r hr => OpRow.selects_eq_mnemonic hr cw
    exact (congrArg (List.map OpRow.mnemonic) hfilter).trans (opcodeTable_filter_mnemonic (decode cw))
  case push =>
    rw [decode_data_eq_dataField (.inl h)]
    simp [Machine.sampleOf, dataField]
  case sym =>
    rw [decode_data_eq_dataField (.inr h)]
    simp [Machine.symbolOf, dataField]

end Sys2Proof
end

section
/-! The words of the stimulus lines (spec/30_encoding.md R81, R82). -/

namespace Sys2Proof.Machine

/-- The number `256 k + v` is the word with operation bits `k` and data byte `v`. -/
theorem ofNat_eq_commandWord (k : Nat) {v : Nat} (hv : v ≤ 255) :
    BitVec.ofNat 11 (0x100 * k + v) = commandWord (BitVec.ofNat 3 k) (BitVec.ofNat 8 v) := by
  apply BitVec.eq_of_toNat_eq
  have hbyte : v % 2 ^ 8 < 2 ^ 8 := Nat.mod_lt v (by decide)
  rw [commandWord, BitVec.toNat_append, BitVec.toNat_ofNat, BitVec.toNat_ofNat, BitVec.toNat_ofNat,
    ← Nat.shiftLeft_add_eq_or_of_lt hbyte, Nat.shiftLeft_eq]
  omega

theorem decode_ofNat_push {v : Nat} (hv : v ≤ 255) : decode (BitVec.ofNat 11 (0x100 + v)) = .push (BitVec.ofNat 8 v) := by
  rw [ofNat_eq_commandWord 1 hv]
  exact decode_commandWord_push _

theorem decode_ofNat_sym {v : Nat} (hv : v ≤ 255) : decode (BitVec.ofNat 11 (0x200 + v)) = .sym (BitVec.ofNat 8 v) := by
  rw [ofNat_eq_commandWord 2 hv]
  exact decode_commandWord_sym _

/-- Settles O3: the words of PUSH and SYM fit eleven bits and are split into operation bits and data byte; a pseudo-operation
repeats one word. -/
theorem stimulusLinesDecodeAsWritten : Obligations.StimulusLinesDecodeAsWritten := by
  refine ⟨⟨rfl, rfl, rfl⟩, ⟨decode_encode .reset, decode_encode .idle, decode_encode .endStream⟩, fun n v hv => ?numbered,
    fun first later => List.flatMap_append⟩
  have htoNat {base : Nat} (hbase : base ≤ 0x200) : (BitVec.ofNat 11 (base + v)).toNat = base + v := by
    rw [BitVec.toNat_ofNat]
    omega
  simp [Line.words, htoNat, decode_ofNat_push hv, decode_ofNat_sym hv]

/-- Settles O4: each word is its operation bits and data byte, read off the pattern. -/
theorem writtenOutWordsDecode : Obligations.WrittenOutWordsDecode :=
  ⟨decode_commandWord_reset (op := 0b100#3) rfl 0x00, decode_commandWord_reset (op := 0b111#3) rfl 0xFF,
    decode_commandWord_reset (op := 0b111#3) rfl 0x01, decode_commandWord_idle 0x00, decode_commandWord_idle 0xFF,
    decode_commandWord_push 0x01, decode_commandWord_push 0xFE, decode_commandWord_sym 0x01, decode_commandWord_sym 0xFE,
    decode_commandWord_endStream 0x00, decode_commandWord_endStream 0xAA⟩

end Sys2Proof.Machine
end

section
/-! The pin-level codes (spec/30_encoding.md R76, R78). -/

namespace Sys2Proof.Machine

/-- The low `POS_W` bits of an emission's word are its position modulo `2^POS_W`. -/
theorem outWord_some_toNat_mod (W : Nat) (e : Emission) : (outWord W (some e)).toNat % 2 ^ W = e.position % 2 ^ W := by
  rw [outWord, BitVec.toNat_append, BitVec.toNat_ofNat, ← Nat.shiftLeft_add_eq_or_of_lt (Nat.mod_lt _ (Nat.two_pow_pos W)),
    Nat.shiftLeft_eq, Nat.mul_add_mod_self_right, Nat.mod_mod]

/-- The bits from `POS_W` up are `out_bit` and `out_valid`. -/
theorem outWord_some_getLsbD_add (W k : Nat) (e : Emission) :
    (outWord W (some e)).getLsbD (W + k) = (1#1 ++ BitVec.ofBool e.bit).getLsbD k := by
  rw [outWord, BitVec.getLsbD_append, if_neg (by omega), Nat.add_sub_cancel_left]

/-- Settles O57: the three fields are appended in the order `out_valid`, `out_bit`, `out_pos`. -/
theorem outputWordHoldsItsFields : Obligations.OutputWordHoldsItsFields := by
  refine ⟨fun W => ?silent, fun W e hpos => ⟨?valid, ?bit, ?position⟩⟩
  case silent => simp [outWord]
  case valid =>
    rw [outWord_some_getLsbD_add W 1 e]
    cases e.bit <;> rfl
  case bit =>
    have hlow : (1#1 ++ BitVec.ofBool e.bit).getLsbD 0 = e.bit := by cases e.bit <;> rfl
    exact (outWord_some_getLsbD_add W 0 e).trans hlow
  case position => rw [outWord_some_toNat_mod, Nat.mod_eq_of_lt hpos]

theorem Level.code_ne_unused (l : Level) : l.code ≠ 0b10 := by cases l <;> decide

theorem lastCode_ne_unused (o : Option Bit) : lastCode o ≠ 0b01 := by
  rcases o with _ | _ | _ <;> decide

theorem Level.code_injective : Function.Injective Level.code := by
  intro l m
  cases l <;> cases m <;> decide

theorem lastCode_injective : Function.Injective lastCode := by
  intro o q
  rcases o with _ | _ | _ <;> rcases q with _ | _ | _ <;> decide

/-- Settles O58: the codes as listed, none of them the unused one, and no two equal. -/
theorem registerCodesAreAsListed : Obligations.RegisterCodesAreAsListed :=
  ⟨rfl, rfl, rfl, Level.code_ne_unused, rfl, rfl, rfl, lastCode_ne_unused, Level.code_injective, lastCode_injective⟩

end Sys2Proof.Machine
end

section
/-! The sum over the ring (spec/40_fir.md): the slots it reads and the order they may be read in, what it is between, and what the
samples pushed from reset make it. -/

namespace Sys2Proof.Machine

/-- `(w - i) mod 16` as the spec writes it, over the naturals (spec/40_fir.md R92). -/
theorem sub_eq_ofNat_sixteen (w i : Fin 16) : w - i = Fin.ofNat 16 (w.val + 16 - i.val) := by
  apply Fin.ext
  rw [Fin.val_sub, Fin.val_ofNat]
  congr 1
  omega

theorem FilterState.output_eq_firSum (K : Kernel) (f : FilterState) (b : Bit) :
    f.output K b = firSum K (f.push b) f.cursor := rfl

/-- Settles O18: the push writes one slot, and the sum reads the slots through the naturals. -/
theorem firStepWritesOneSlotThenSumsTheRing : Obligations.FirStepWritesOneSlotThenSumsTheRing := by
  intro s b
  refine ⟨s.fir.push_slot_cursor b, s.fir.push_slot_other b, ?cursor, rfl, ?output⟩
  case cursor => rw [firStep_state_fir, FilterState.push_cursor, Fin.val_add, Fin.val_one]
  case output =>
    rw [firStep_output, FilterState.output_eq_firSum, firSum_eq]
    refine Finset.sum_congr rfl fun i _ => ?_
    rw [firStep_state_fir, sub_eq_ofNat_sixteen]

/-! ### Oldest first -/

/-- Mirroring the tap turns the walk down from the newest slot into a walk up from the oldest one. -/
theorem sub_rev_eq_add_one_add (w i : Fin 16) : w - i.rev = w + 1 + i := by
  apply Fin.ext
  simp only [Fin.val_sub, Fin.val_add, Fin.val_rev, Fin.val_one]
  omega

/-- Settles O21: a symmetric kernel has the same coefficient at the mirrored tap. -/
theorem oldestFirstReadoutGivesTheSameOutput : Obligations.OldestFirstReadoutGivesTheSameOutput := by
  intro K f w ⟨hsymmetric, _⟩
  calc firSum K f w
      = ∑ i : Fin 16, if f.slot (w - i) then K.coeff i else 0 := firSum_eq K f w
    _ = ∑ i : Fin 16, if f.slot (w - i.rev) then K.coeff i.rev else 0 := (Equiv.sum_comp Fin.revPerm _).symm
    _ = ∑ i : Fin 16, if f.slot (w + 1 + i) then K.coeff i else 0 := by
      simp only [sub_rev_eq_add_one_add, ← hsymmetric]

/-! ### The range -/

/-- Each tap adds its coefficient or 0, so at least the negative part of the coefficient. -/
theorem sum_min_zero_le_firSum (K : Kernel) (f : FilterState) (w : Fin 16) :
    ∑ i : Fin 16, min (K.coeff i) 0 ≤ firSum K f w := by
  rw [firSum_eq]
  refine Finset.sum_le_sum fun i _ => ?_
  split
  · exact min_le_left _ _
  · exact min_le_right _ _

/-- Each tap adds its coefficient or 0, so at most the positive part of the coefficient. -/
theorem firSum_le_sum_max_zero (K : Kernel) (f : FilterState) (w : Fin 16) :
    firSum K f w ≤ ∑ i : Fin 16, max (K.coeff i) 0 := by
  rw [firSum_eq]
  refine Finset.sum_le_sum fun i _ => ?_
  split
  · exact le_max_left _ _
  · exact le_max_right _ _

/-- Settles O23: without negative coefficients the negative parts are 0 and the positive parts the coefficients themselves. -/
theorem firOutputLiesBetweenTheSignedSums : Obligations.FirOutputLiesBetweenTheSignedSums := by
  intro s b
  rw [firStep_output, FilterState.output_eq_firSum]
  have hlow := sum_min_zero_le_firSum s.par.kernel (s.fir.push b) s.fir.cursor
  have hhigh := firSum_le_sum_max_zero s.par.kernel (s.fir.push b) s.fir.cursor
  refine ⟨hlow, hhigh, fun hnonneg => ?_⟩
  simp only [min_eq_right (hnonneg _), Finset.sum_const_zero] at hlow
  simp only [max_eq_left (hnonneg _)] at hhigh
  exact ⟨hlow, hhigh⟩

/-! ### From reset -/

/-- With `x` and then `b` pushed from reset, the slot of tap `i` holds the sample `i` places back, 0 before the first. -/
theorem FilterState.afterSamples_push_tap (x : List Bit) (b : Bit) (i : Fin 16) :
    ((afterSamples x).push b).slot ((afterSamples x).cursor - i) = sampleBack (x ++ [b]) x.length i := by
  have htap : (afterSamples x).cursor - i = Fin.ofNat 16 (x.length + 16 - i.val) := by
    rw [afterSamples_cursor, sub_eq_ofNat_sixteen]
    apply Fin.ext
    simp only [Fin.val_ofNat]
    omega
  have hlength : (x ++ [b]).length = x.length + 1 := List.length_append
  rw [htap, ← afterSamples_append, afterSamples_slot _ _ (by omega) (by omega), sampleBack]
  have hwritten : 16 ≤ x.length + 16 - i.val ↔ i.val ≤ x.length := by omega
  have hindex : x.length + 16 - i.val - 16 = x.length - i.val := by omega
  simp only [hwritten, hindex]

/-- From reset the filter's output is the `y[n]` of the reference definition (spec/40_fir.md R95). -/
theorem FilterState.afterSamples_output (K : Kernel) (x : List Bit) (b : Bit) :
    (afterSamples x).output K b = filtered K (x ++ [b]) x.length := by
  rw [output_eq_firSum, firSum_eq, filtered]
  simp only [afterSamples_push_tap, bitValue_mul]

/-- Settles O20: the reference definition with the zeros before the first sample written out. -/
theorem firOutputIsTheClosedForm : Obligations.FirOutputIsTheClosedForm := by
  intro K x b
  refine (FilterState.afterSamples_output K x b).trans (Finset.sum_congr rfl fun i _ => ?_)
  rw [bitValue_mul, sampleBack]
  split
  case isTrue => rfl
  case isFalse => exact if_neg Bool.false_ne_true

/-! ### Constant input -/

theorem firSum_of_slots_true (K : Kernel) (f : FilterState) (w : Fin 16) (hones : ∀ j, f.slot j = true) :
    firSum K f w = K.gain := by
  simp only [firSum_eq, hones, if_true, Kernel.gain]

theorem firSum_of_slots_false (K : Kernel) (f : FilterState) (w : Fin 16) (hzeros : ∀ j, f.slot j = false) :
    firSum K f w = 0 := by
  simp [firSum_eq, hzeros]

/-- The two sides of R8 (b) as one absolute value. -/
theorem abs_gain_sub_one_le {K : Kernel} (hK : K.Admissible) : |K.gain - 1| ≤ 1 / 10 ^ 9 := by
  obtain ⟨-, habove, hbelow⟩ := hK
  have htolerance : (1 / 10 ^ 9 : Rat) = Config.gainTolerance := by norm_num
  rw [htolerance]
  exact abs_sub_le_iff.2 ⟨habove, hbelow⟩

theorem output_after_ones (K : Kernel) (n : Nat) :
    (FilterState.afterSamples (List.replicate n true)).output K true = ∑ i : Fin 16, if i.val ≤ n then K.coeff i else 0 := by
  refine (firOutputIsTheClosedForm K (List.replicate n true) true).trans (Finset.sum_congr rfl fun i _ => ?_)
  rw [List.length_replicate, ← List.replicate_succ', List.getD_replicate _ (by omega), if_pos rfl]

theorem testKernels_admissible_and_gain :
    ∀ K ∈ [Config.kt1, Config.kt2, Config.kt3], K.Admissible ∧ K.gain = 1 := by decide +kernel

/-- Settles O22: all ones select every coefficient, all zeros none, and `n + 1` ones from reset those of the taps `0..n`. -/
theorem dcResponseIsTheKernelSum : Obligations.DcResponseIsTheKernelSum := by
  refine ⟨fun K f w hones => ?ones, firSum_of_slots_false, output_after_ones, testKernels_admissible_and_gain⟩
  case ones =>
    have hsum := firSum_of_slots_true K f w hones
    exact ⟨hsum, fun hK => hsum ▸ abs_gain_sub_one_le hK⟩

end Sys2Proof.Machine
end

section
/-! The warm-up discard and the slicer (spec/41_slicer.md): when an output is dropped, which symbol a kept one gives, the integer
test of a fixed-point realisation, and when an output can meet the threshold exactly. -/

namespace Sys2Proof.Machine

/-! ### The discard -/

theorem discardWarmup_of_pos (s : State) (hskip : 0 < s.skipCnt) :
    discardWarmup s = ({ s with skipCnt := s.skipCnt - 1 }, .dropped) :=
  if_pos (decide_eq_true hskip)

theorem discardWarmup_of_eq_zero (s : State) (hskip : s.skipCnt = 0) : discardWarmup s = (s, .kept) := by
  have hkept : s.discarding = false := by simp [State.discarding, hskip]
  simp [discardWarmup, hkept]

/-- Settles O24: the two branches of the discard. -/
theorem discardDropsWhileSkipCountIsPositive : Obligations.DiscardDropsWhileSkipCountIsPositive := fun s =>
  ⟨discardWarmup_of_pos s, discardWarmup_of_eq_zero s⟩

/-! ### The slicer -/

theorem slice_eq_true_iff (threshold y : Rat) : slice threshold y = true ↔ threshold ≤ y := decide_eq_true_iff

theorem slice_eq_false_iff (threshold y : Rat) : slice threshold y = false ↔ y < threshold :=
  decide_eq_false_iff_not.trans not_le

/-- Settles O25: the slicer's two sides, and the default of `Config.paramsWith`. -/
theorem sliceIsOneFromTheThresholdUp : Obligations.SliceIsOneFromTheThresholdUp :=
  ⟨fun threshold y => ⟨(slice_eq_true_iff threshold y).2, (slice_eq_false_iff threshold y).2⟩, rfl⟩

/-! ### Fixed point -/

/-- Multiplying the slicer's comparison by `q * 2^F` leaves the integer test of spec/41_slicer.md R108. -/
theorem slice_div_two_pow_eq_sliceFixed (p Y : Int) (q F : Nat) (hq : 0 < q) : slice (p / q) (Y / 2 ^ F) = sliceFixed p q F Y := by
  have hq' : (0 : Rat) < q := Nat.cast_pos.2 hq
  have hscale : (0 : Rat) < 2 ^ F := by positivity
  have htest : (p / q : Rat) ≤ Y / 2 ^ F ↔ p * 2 ^ F ≤ (q : Int) * Y := by
    rw [div_le_div_iff₀ hq' hscale, mul_comm (Y : Rat)]
    exact_mod_cast Iff.rfl
  exact decide_eq_decide.2 htest

/-- The integer threshold is the least integer that passes the integer test for 19/20. -/
theorem thresholdInt_le_iff (F : Nat) (Y : Int) : thresholdInt F ≤ Y ↔ 19 * 2 ^ F ≤ 20 * Y := by
  unfold thresholdInt
  omega

theorem slice_default_eq_decide_thresholdInt_le (Y : Int) (F : Nat) :
    slice (19 / 20) (Y / 2 ^ F) = decide (thresholdInt F ≤ Y) := by
  calc slice (19 / 20) (Y / 2 ^ F)
      = sliceFixed 19 20 F Y := slice_div_two_pow_eq_sliceFixed 19 Y 20 F (by decide)
    _ = decide (thresholdInt F ≤ Y) := decide_eq_decide.2 (thresholdInt_le_iff F Y).symm

/-- Both sides are below the same integers. -/
theorem thresholdInt_eq_ceil (F : Nat) : thresholdInt F = ⌈(19 * 2 ^ F / 20 : Rat)⌉ := by
  refine eq_of_forall_ge_iff fun Y => ?_
  rw [thresholdInt_le_iff, Int.ceil_le, div_le_iff₀' (by norm_num)]
  exact_mod_cast Iff.rfl

/-- Settles O26: the integer test for `p / q`, its case 19/20 with the integer threshold, and that threshold as a ceiling. -/
theorem fixedPointSlicerAgrees : Obligations.FixedPointSlicerAgrees :=
  ⟨slice_div_two_pow_eq_sliceFixed, slice_default_eq_decide_thresholdInt_le, thresholdInt_eq_ceil, by decide⟩

/-! ### Outputs equal to the threshold -/

/-- The integer accumulator of a fixed-point realisation (spec/40_fir.md R93): with coefficients over `2^F` every output is one. -/
theorem exists_int_firSum_eq_div_two_pow {K : Kernel} {F : Nat} (hK : ∀ i : Fin 16, ∃ k : Int, K.coeff i = k / 2 ^ F)
    (f : FilterState) (w : Fin 16) : ∃ Y : Int, firSum K f w = Y / 2 ^ F := by
  choose k hk using hK
  refine ⟨∑ i : Fin 16, if f.slot (w - i) then k i else 0, ?_⟩
  rw [firSum_eq, Int.cast_sum, Finset.sum_div]
  refine Finset.sum_congr rfl fun i _ => ?_
  split
  · exact hk i
  · simp

/-- 5 divides `20 * Y` and not `19 * 2^F`. -/
theorem div_two_pow_ne_default_threshold (Y : Int) (F : Nat) : (Y / 2 ^ F : Rat) ≠ 19 / 20 := by
  intro heq
  have hcross : Y * 20 = 19 * 2 ^ F := by
    rw [div_eq_div_iff (by positivity) (by norm_num)] at heq
    exact_mod_cast heq
  have hfive : (5 : Int) ∣ 19 * 2 ^ F := ⟨Y * 4, by omega⟩
  have hprime : Prime (5 : Int) := by norm_num
  rcases hprime.dvd_or_dvd hfive with h19 | hpow
  · omega
  · have htwo := hprime.dvd_of_dvd_pow hpow
    omega

/-- A ring in which only tap 3, read from slot 3, sees a 0: of `KT3`'s sum of 1 it leaves out one weight 1/20. -/
def FilterState.onesButTapThree : FilterState where
  hist := (Vector.replicate 16 true).set 3 false
  cursor := 0

theorem firSum_kt3_onesButTapThree : firSum Config.kt3 FilterState.onesButTapThree 6 = 19 / 20 := by decide +kernel

/-- Settles O27: outputs over `2^F` miss 19/20, and with `KT3` the ring above meets it. -/
theorem dyadicKernelNeverMeetsTheThreshold : Obligations.DyadicKernelNeverMeetsTheThreshold := by
  refine ⟨fun K F hK f w => ?dyadic, FilterState.onesButTapThree, 6, firSum_kt3_onesButTapThree⟩
  case dyadic =>
    obtain ⟨Y, hY⟩ := exists_int_firSum_eq_div_two_pow hK f w
    exact hY ▸ div_two_pow_ne_default_threshold Y F

end Sys2Proof.Machine
end

section
/-! The bound on `counter` once the level is known (spec/42_decoder.md R129): how far one call can raise it, and why the window ends
the failed candidates that take it above 9. -/

namespace Sys2Proof.Machine

/-- A known level sees one of two different symbols. -/
theorem Level.sees_of_ne {l : Level} {a b : Bit} (hl : l ≠ .unknown) (ha : l.sees a = false) (hne : b ≠ a) : l.sees b = true := by
  rw [Bool.eq_not_of_ne hne, Level.sees_not l a hl, ha, Bool.not_false]

/-- An unchanged symbol leaves a count below the limit: at the limit the fallback clears it (spec/42_decoder.md R129 (a)). -/
theorem DecoderState.unchanged_counter_le_nine (P : Params) (d : DecoderState) : (d.unchanged P).counter ≤ 9 := by
  rcases Nat.lt_or_ge (satAdd P d.counter 1) 10 with hcount | hfallback
  · rw [DecoderState.unchanged_of_lt P d hcount]
    exact Nat.le_of_lt_succ hcount
  · rw [DecoderState.unchanged_of_le P d hfallback]
    exact Nat.zero_le 9

theorem decProcess_counter_le_nine_of_sees (P : Params) {d : DecoderState} {a : Bit} (la0 la1 : Option Bit)
    (h : d.lvl.sees a = true) : (decProcess P d a la0 la1).1.counter ≤ 9 := by
  rw [decProcess_of_sees P d a la0 la1 h]
  exact d.unchanged_counter_le_nine P

theorem decProcess_counter_le_of_fail_first (P : Params) {d : DecoderState} {a : Bit} {la0 : Option Bit} (la1 : Option Bit)
    (h : d.lvl.sees a = false) (h0 : la0 ≠ some a) : (decProcess P d a la0 la1).1.counter ≤ d.counter + 1 := by
  rw [decProcess_of_fail_first P d a la0 la1 h h0]
  exact satAdd_le_add P d.counter 1

theorem decProcess_counter_le_of_fail_second (P : Params) {d : DecoderState} {a : Bit} {la1 : Option Bit}
    (h : d.lvl.sees a = false) (h1 : la1 ≠ some a) : (decProcess P d a (some a) la1).1.counter ≤ d.counter + 2 := by
  rw [decProcess_of_fail_second P d a la1 h h1]
  exact satAdd_le_add P d.counter 2

theorem decProcess_counter_of_edge (P : Params) {d : DecoderState} {a : Bit} (h : d.lvl.sees a = false) :
    (decProcess P d a (some a) (some a)).1.counter = 0 := by
  rw [decProcess_of_edge P d a h]
  exact d.acceptEdge_counter a

/-- What `State.CounterTight` says of an open stream, about the registers and the two symbols that come next. -/
def DecoderState.Tight (d : DecoderState) (w0 w1 : Bit) : Prop :=
  d.lvl ≠ .unknown →
    d.counter ≤ 9 ∨ (d.counter ≤ 12 ∧ d.lvl.sees w0 = true) ∨
      (d.counter ≤ 11 ∧ d.lvl.sees w0 = false ∧ d.lvl.sees w1 = true)

theorem State.counterTight_iff_of_open {s : State} (hopen : s.ended = false) :
    s.CounterTight ↔ s.dec.Tight s.win[0] s.win[1] := by
  simp [State.CounterTight, DecoderState.Tight, hopen]

/-- Processing the older symbol keeps the bound's reason, for the window moved up. -/
theorem DecoderState.Tight.decProcess {d : DecoderState} {w0 w1 : Bit} (h : d.Tight w0 w1) (P : Params) (b : Bit) :
    (decProcess P d w0 (some w1) (some b)).1.Tight w1 b := by
  intro hknown
  cases hw0 : d.lvl.sees w0 with
  | true => exact .inl (decProcess_counter_le_nine_of_sees P (some w1) (some b) hw0)
  | false =>
    by_cases hw1 : w1 = w0
    · subst hw1
      by_cases hb : b = w1
      · subst hb
        exact .inl ((decProcess_counter_of_edge P hw0).trans_le (Nat.zero_le 9))
      · -- a failure at step 1: the first of two candidates, so the count was at most 9
        have hcall := decProcess_of_fail_second P d w1 (some b) hw0 (by simpa using hb)
        have hlvl : d.lvl ≠ .unknown := by simpa [hcall, DecoderState.advance] using hknown
        have hcount := decProcess_counter_le_of_fail_second P hw0 (la1 := some b) (by simpa using hb)
        have hbefore : d.counter ≤ 9 := by simpa [hw0] using h hlvl
        refine .inr (.inr ⟨by omega, ?_, ?_⟩)
        · simpa [hcall, DecoderState.advance] using hw0
        · simpa [hcall, DecoderState.advance] using Level.sees_of_ne hlvl hw0 hb
    · -- a failure at step 0: the symbol that comes next is the level's
      have hcall := decProcess_of_fail_first P d w0 (some w1) (some b) hw0 (by simpa using hw1)
      have hlvl : d.lvl ≠ .unknown := by simpa [hcall, DecoderState.advance] using hknown
      have hcount := decProcess_counter_le_of_fail_first P (some b) hw0 (la0 := some w1) (by simpa using hw1)
      have hbefore : d.counter ≤ 11 := by
        rcases h hlvl with hc | ⟨_, hsees⟩ | ⟨hc, _⟩
        · omega
        · exact absurd hsees (by simp [hw0])
        · exact hc
      refine .inr (.inl ⟨by omega, ?_⟩)
      simpa [hcall, DecoderState.advance] using Level.sees_of_ne hlvl hw0 hw1

/-- Draining a full window raises the count to 12 at most. -/
theorem DecoderState.Tight.drain_counter_le {d : DecoderState} {w0 w1 : Bit} (h : d.Tight w0 w1) (hknown : d.lvl ≠ .unknown)
    (P : Params) :
    (Machine.decProcess P (Machine.decProcess P d w0 (some w1) none).1 w1 none none).1.counter ≤ 12 := by
  have hlvl := decProcess_lvl_of_no_second P d w0 (some w1)
  generalize hd' : (Machine.decProcess P d w0 (some w1) none).1 = d' at hlvl
  cases hw1 : d'.lvl.sees w1 with
  | true =>
    have := decProcess_counter_le_nine_of_sees P none none hw1
    omega
  | false =>
    have hsecond := decProcess_counter_le_of_fail_first P none hw1 (la0 := none) (by simp)
    suffices d'.counter ≤ 11 by omega
    subst hd'
    cases hw0 : d.lvl.sees w0 with
    | true =>
      have := decProcess_counter_le_nine_of_sees P (some w1) none hw0
      omega
    | false =>
      have heq : w1 = w0 := by
        by_contra hne
        exact absurd (Level.sees_of_ne hknown hw0 hne) (by rw [← hlvl, hw1]; decide)
      have hbefore : d.counter ≤ 9 := by simpa [hw0, heq] using h hknown
      have := decProcess_counter_le_of_fail_second P hw0 (la1 := none) (by simp)
      subst heq
      omega

namespace State

variable {s : State}

theorem counterTight_of_unknown (h : s.dec.lvl = .unknown) : s.CounterTight := fun hknown => absurd h hknown

/-- A window that is still filling on an open stream has an unknown level. -/
theorem Inv.lvl_of_filling (h : s.Inv) (hopen : s.ended = false) (hn : s.winN ≠ 2) : s.dec.lvl = .unknown := by
  rw [h.filling hopen hn, DecoderState.reset_lvl]

theorem CounterTight.deliver (h : s.CounterTight) (hinv : s.Inv) (hopen : s.ended = false) (b : Bit) :
    (s.deliver b).CounterTight := by
  rcases winN_cases s.winN with hw | hw | hw
  · rw [State.deliver, decAccept_empty s b hw]
    exact counterTight_of_unknown (hinv.lvl_of_filling hopen (by simp [hw]))
  · rw [State.deliver, decAccept_half s b hw]
    exact counterTight_of_unknown (hinv.lvl_of_filling hopen (by simp [hw]))
  · rw [State.deliver, decAccept_full s b hw]
    refine (counterTight_iff_of_open ?_).2 ?_
    · exact hopen
    · exact ((counterTight_iff_of_open hopen).1 h).decProcess s.par b

theorem CounterTight.pushSample (h : s.CounterTight) (hinv : s.Inv) (hopen : s.ended = false) (b : Bit) :
    (s.pushSample b).CounterTight := by
  rcases Nat.eq_zero_or_pos s.skipCnt with hkept | hdropped
  · rw [State.pushSample_kept s b hkept]
    exact deliver (s := { s with fir := s.fir.push b }) h (hinv.withFir _) hopen _
  · rw [State.pushSample_dropped s b hdropped]
    exact h

theorem CounterTight.endOfStream (h : s.CounterTight) (hinv : s.Inv) (hopen : s.ended = false) :
    s.endOfStream.CounterTight := by
  intro hknown
  have hbefore : s.dec.lvl ≠ .unknown := decDrain_lvl s ▸ hknown
  have hfull : s.winN = 2 := by
    by_contra hn
    exact hbefore (hinv.lvl_of_filling hopen hn)
  refine .inr (.inl ⟨rfl, ?_⟩)
  rw [State.endOfStream, decDrain_full s hfull]
  exact ((counterTight_iff_of_open hopen).1 h).drain_counter_le hbefore s.par

/-- Every operation keeps the bound's reason. -/
theorem CounterTight.exec {t : State} {i : Instr} (h : s.CounterTight) (hinv : s.Inv) (ht : exec i s = .next t) :
    t.CounterTight := by
  by_cases hi : i = .reset
  · subst hi; cases ht
    exact counterTight_of_unknown rfl
  cases hs : s.ended with
  | true =>
    rw [exec_of_ended s i hs hi] at ht
    cases ht
    exact h
  | false =>
    cases i with
    | reset => exact absurd rfl hi
    | idle => cases ht; exact h
    | push data =>
      rw [exec_push, unlessEnded_of_open _ _ hs] at ht
      cases ht
      exact h.pushSample hinv hs (sampleOf data)
    | sym data =>
      rw [exec_sym, unlessEnded_of_open _ _ hs] at ht
      cases ht
      exact h.deliver hinv hs (symbolOf data)
    | endStream =>
      rw [exec_endStream, unlessEnded_of_open _ _ hs] at ht
      cases ht
      exact h.endOfStream hinv hs

theorem CounterTight.counter_le (h : s.CounterTight) (hknown : s.dec.lvl ≠ .unknown) : s.dec.counter ≤ 12 := by
  rcases h hknown with hc | ⟨_, hc⟩ | ⟨hc, _⟩ | ⟨hc, _⟩ <;> omega

end State

/-- Settles O55: the level is unknown after reset, every operation keeps the bound's reason, and each of its four cases gives the
bound. -/
theorem counterStaysBelowThirteenOnceTheLevelIsKnown : Obligations.CounterStaysBelowThirteenOnceTheLevelIsKnown := by
  refine ⟨fun P => State.counterTight_of_unknown rfl, fun s t hinv h ht => ?_, fun s => State.CounterTight.counter_le⟩
  rw [step, State.fetch_registers] at ht
  exact State.CounterTight.exec (s := { s with cmds := s.cmds.tail }) h (hinv.withCmds _) ht

end Sys2Proof.Machine
end

section
/-! One call of the decoder, case by case (spec/42_decoder.md R115 to R121, R126). -/

namespace Sys2Proof.Machine

/-- "Symbol equals `lvl`", with the two ways it can hold. -/
theorem Level.sees_iff_cases (l : Level) (a : Bit) : l.sees a = true ↔ (l = .l0 ∧ a = false) ∨ (l = .l1 ∧ a = true) := by
  cases l <;> cases a <;> decide

/-- Settles O28: the two cases of an unchanged symbol. -/
theorem unchangedSymbolCountsOrFallsBack : Obligations.UnchangedSymbolCountsOrFallsBack := by
  intro P d a la0 la1 h
  rw [decProcess_of_sees P d a la0 la1 ((Level.sees_iff_cases d.lvl a).2 h)]
  constructor
  · intro hfallback
    rw [DecoderState.unchanged_of_le P d hfallback]
    rfl
  · intro hcount
    rw [DecoderState.unchanged_of_lt P d hcount]
    rfl

/-- Settles O29: the two lookahead steps at which a candidate can fail. -/
theorem failedCandidateCountsAsNoise : Obligations.FailedCandidateCountsAsNoise := by
  intro P d a la0 la1 h
  have hsees : d.lvl.sees a = false := by simpa [← Level.sees_iff_cases] using h
  constructor
  · intro h0
    rw [decProcess_of_fail_first P d a la0 la1 hsees h0]
    rfl
  · rintro rfl h1
    rw [decProcess_of_fail_second P d a la1 hsees h1]
    rfl

/-- With `counter = 0` an accepted edge only adopts the level (spec/42_decoder.md R119). -/
theorem DecoderState.acceptEdge_of_counter_zero {d : DecoderState} (a : Bit) (hzero : d.counter = 0) :
    d.acceptEdge a = ({ d with lvl := levelOf a }, none) := by
  simp [DecoderState.acceptEdge, hzero]

/-- A pending half-bit is emitted inverted and cleared (spec/42_decoder.md R120). -/
theorem DecoderState.acceptEdge_of_pending {d : DecoderState} (a b : Bit) (hcounter : d.counter ≠ 0) (hlast : d.last = some b) :
    d.acceptEdge a = ({ d with lvl := levelOf a, counter := 0, last := none }, some ⟨!b, d.pos⟩) := by
  cases b <;> simp [DecoderState.acceptEdge, DecoderState.resolve, hcounter, hlast]

/-- With nothing pending the edge becomes the first half of a bit (spec/42_decoder.md R120). -/
theorem DecoderState.acceptEdge_of_none_pending {d : DecoderState} (a : Bit) (hcounter : d.counter ≠ 0) (hlast : d.last = none) :
    d.acceptEdge a = ({ d with lvl := levelOf a, counter := 0, last := some true }, none) := by
  simp [DecoderState.acceptEdge, DecoderState.resolve, hcounter, hlast]

/-- Settles O30: the cases of an accepted edge, by `counter` and `last`. -/
theorem acceptedEdgeResolvesThePendingHalfBit : Obligations.AcceptedEdgeResolvesThePendingHalfBit := by
  intro P d a h
  have hsees : d.lvl.sees a = false := by simpa [← Level.sees_iff_cases] using h
  rw [decProcess_of_edge P d a hsees]
  refine ⟨fun hzero => ?_, fun hcounter => ⟨fun hlast => ?_, fun hlast => ?_, fun hlast => ?_⟩⟩
  · rw [DecoderState.acceptEdge_of_counter_zero a hzero]
    rfl
  · rw [DecoderState.acceptEdge_of_pending a false hcounter hlast]
    rfl
  · rw [DecoderState.acceptEdge_of_pending a true hcounter hlast]
    rfl
  · rw [DecoderState.acceptEdge_of_none_pending a hcounter hlast]
    rfl

/-- An accepted edge emits exactly when the count is not 0 and a half-bit is pending. -/
theorem DecoderState.acceptEdge_emission_iff (d : DecoderState) (a : Bit) (e : Emission) :
    (d.acceptEdge a).2 = some e ↔ d.counter ≠ 0 ∧ d.last = some (!e.bit) ∧ e.position = d.pos := by
  obtain ⟨bit, position⟩ := e
  by_cases hzero : d.counter = 0
  · simp [DecoderState.acceptEdge_of_counter_zero a hzero, hzero]
  · cases hlast : d.last with
    | none => simp [DecoderState.acceptEdge_of_none_pending a hzero hlast]
    | some b =>
      rw [DecoderState.acceptEdge_of_pending a b hzero hlast]
      cases b <;> cases bit <;> simp [hzero, eq_comm]

/-- Settles O33: of the four ways a call goes only an accepted edge can emit. -/
theorem emissionNeedsConfirmedEdgeAndPendingBit : Obligations.EmissionNeedsConfirmedEdgeAndPendingBit := by
  intro P d a la0 la1 e
  rw [← Level.sees_eq_false_iff, ← confirms_iff la0, ← confirms_iff la1, ← d.acceptEdge_emission_iff a e]
  rcases decCase_cases P d a la0 la1 with ⟨hsees, h⟩ | ⟨_, h0, h⟩ | ⟨_, _, h1, h⟩ | ⟨hsees, h0, h1, h⟩
  · simp [decProcess, h, hsees]
  · simp [decProcess, h, h0]
  · simp [decProcess, h, h1]
  · simp [decProcess, h, hsees, h0, h1]

namespace TableRow

/-- The row of spec/42_decoder.md R126 for a call, its conditions tested in the order of R115. -/
def ofCall (P : Params) (d : DecoderState) (a : Bit) (la0 la1 : Option Bit) : TableRow :=
  if d.lvl = levelOf a then
    if min (d.counter + 1) P.cntMax < 10 then .unchangedBelowTen else .unchangedFallback
  else if la0 ≠ some a then .noiseAtStep0
  else if la1 ≠ some a then .noiseAtStep1
  else if d.counter = 0 then .edgeAtZero
  else
    match d.last with
    | none => .edgeFirst
    | some true => .edgeEmitsZero
    | some false => .edgeEmitsOne

variable {P : Params} {d : DecoderState} {a : Bit} {la0 la1 : Option Bit} {r : TableRow}

/-- The rows are exhaustive. -/
theorem ofCall_applies : (ofCall P d a la0 la1).Applies P d a la0 la1 := by
  fun_cases ofCall P d a la0 la1 <;> simp_all [Applies]

/-- The rows are mutually exclusive. -/
theorem Applies.eq_ofCall (h : r.Applies P d a la0 la1) : r = ofCall P d a la0 la1 := by
  cases r with
  | unchangedBelowTen => obtain ⟨hlvl, hcount⟩ := h; simp only [ofCall, hlvl, hcount, if_true]
  | unchangedFallback => obtain ⟨hlvl, hcount⟩ := h; simp only [ofCall, hlvl, hcount.not_gt, if_true, if_false]
  | noiseAtStep0 => obtain ⟨hlvl, h0⟩ := h; simp [ofCall, hlvl, h0]
  | noiseAtStep1 => obtain ⟨hlvl, h0, h1⟩ := h; simp [ofCall, hlvl, h0, h1]
  | edgeAtZero => obtain ⟨hlvl, h0, h1, hzero⟩ := h; simp [ofCall, hlvl, h0, h1, hzero]
  | edgeFirst => obtain ⟨hlvl, h0, h1, hcounter, hlast⟩ := h; simp [ofCall, hlvl, h0, h1, hcounter, hlast]
  | edgeEmitsZero => obtain ⟨hlvl, h0, h1, hcounter, hlast⟩ := h; simp [ofCall, hlvl, h0, h1, hcounter, hlast]
  | edgeEmitsOne => obtain ⟨hlvl, h0, h1, hcounter, hlast⟩ := h; simp [ofCall, hlvl, h0, h1, hcounter, hlast]

/-- A call does what the row that applies says. -/
theorem Applies.decProcess_eq (h : r.Applies P d a la0 la1) : decProcess P d a la0 la1 = (r.after P d a, r.emission d) := by
  cases r with
  | unchangedBelowTen =>
    obtain ⟨hlvl, hcount⟩ := h
    rw [decProcess_of_sees P d a la0 la1 ((d.lvl.sees_iff a).2 hlvl), DecoderState.unchanged_of_lt P d hcount]
    rfl
  | unchangedFallback =>
    obtain ⟨hlvl, hcount⟩ := h
    rw [decProcess_of_sees P d a la0 la1 ((d.lvl.sees_iff a).2 hlvl), DecoderState.unchanged_of_le P d hcount]
    rfl
  | noiseAtStep0 =>
    obtain ⟨hlvl, h0⟩ := h
    rw [decProcess_of_fail_first P d a la0 la1 ((d.lvl.sees_eq_false_iff a).2 hlvl) h0]
    rfl
  | noiseAtStep1 =>
    obtain ⟨hlvl, rfl, h1⟩ := h
    rw [decProcess_of_fail_second P d a la1 ((d.lvl.sees_eq_false_iff a).2 hlvl) h1]
    rfl
  | edgeAtZero =>
    obtain ⟨hlvl, rfl, rfl, hzero⟩ := h
    rw [decProcess_of_edge P d a ((d.lvl.sees_eq_false_iff a).2 hlvl), DecoderState.acceptEdge_of_counter_zero a hzero]
    simp [DecoderState.advance, after, emission, hzero]
  | edgeFirst =>
    obtain ⟨hlvl, rfl, rfl, hcounter, hlast⟩ := h
    rw [decProcess_of_edge P d a ((d.lvl.sees_eq_false_iff a).2 hlvl), DecoderState.acceptEdge_of_none_pending a hcounter hlast]
    rfl
  | edgeEmitsZero =>
    obtain ⟨hlvl, rfl, rfl, hcounter, hlast⟩ := h
    rw [decProcess_of_edge P d a ((d.lvl.sees_eq_false_iff a).2 hlvl), DecoderState.acceptEdge_of_pending a true hcounter hlast]
    rfl
  | edgeEmitsOne =>
    obtain ⟨hlvl, rfl, rfl, hcounter, hlast⟩ := h
    rw [decProcess_of_edge P d a ((d.lvl.sees_eq_false_iff a).2 hlvl), DecoderState.acceptEdge_of_pending a false hcounter hlast]
    rfl

end TableRow

/-- Settles O32: the row the conditions select applies, no other does, and the call does what it says. -/
theorem decoderFollowsItsTable : Obligations.DecoderFollowsItsTable := fun P d a la0 la1 =>
  ⟨TableRow.ofCall P d a la0 la1, TableRow.ofCall_applies, fun _ h => h.eq_ofCall, TableRow.ofCall_applies.decProcess_eq⟩

end Sys2Proof.Machine
end

section
/-! The window (spec/42_decoder.md R122, R123). -/

namespace Sys2Proof.Machine

/-- The slots of the window, written out. -/
theorem win_eta (win : Vector Bit 2) : win = #v[win[0], win[1]] := by
  apply Vector.ext
  intro i hi
  interval_cases i <;> rfl

theorem win_set_zero (win : Vector Bit 2) (b : Bit) : win.set 0 b = #v[b, win[1]] := by
  rw [win_eta (win.set 0 b)]
  simp

theorem win_set_one (win : Vector Bit 2) (b : Bit) : win.set 1 b = #v[win[0], b] := by
  rw [win_eta (win.set 1 b)]
  simp

/-- Settles O35: a delivery by the number of symbols the window holds. -/
theorem deliveredSymbolsFillTheWindowThenAreProcessed : Obligations.DeliveredSymbolsFillTheWindowThenAreProcessed := by
  refine fun s b => ⟨fun hw => ?_, fun hw => ?_, decAccept_full s b⟩
  · rw [decAccept_empty s b hw, win_set_zero]
  · rw [decAccept_half s b hw, win_set_one]

/-- Settles O36: the drain by the number of symbols the window holds; no call of it has a second lookahead symbol. -/
theorem drainProcessesTheWindowAndNeverEmits : Obligations.DrainProcessesTheWindowAndNeverEmits := by
  refine fun s => ⟨?_, fun hw => ?_, fun hw => ?_, fun hw => ?_⟩
  · rcases winN_cases s.winN with hw | hw | hw
    · rw [decDrain_empty s hw]
    · rw [decDrain_half s hw]
    · rw [decDrain_full s hw]
  · rw [decDrain_full s hw]
    exact ⟨decProcess_emission_of_no_second .., decProcess_emission_of_no_second .., rfl⟩
  · rw [decDrain_half s hw]
    exact ⟨decProcess_emission_of_no_second .., rfl⟩
  · rw [decDrain_empty s hw]

end Sys2Proof.Machine
end

section
/-! The position of each call of a stream (spec/42_decoder.md R121). -/

namespace Sys2Proof.Machine

theorem nextPos_of_bounded {P : Params} {W : Nat} (hW : P.posW = some W) (pos : Nat) : nextPos P pos = (pos + 1) % 2 ^ W := by
  simp [nextPos, hW]

theorem nextPos_of_unbounded {P : Params} (hW : P.posW = none) (pos : Nat) : nextPos P pos = pos + 1 := by
  simp [nextPos, hW]

/-- Before the `k`-th symbol of a list the position has moved on `k` times. -/
theorem decoderAt_pos (P : Params) (d : DecoderState) (symbols : List Bit) (k : Nat) (hk : k ≤ symbols.length) :
    (decoderAt P d symbols k).pos = (nextPos P)^[k] d.pos := by
  induction symbols generalizing d k with
  | nil => rw [Nat.le_zero.1 hk]; rfl
  | cons a rest ih =>
    cases k with
    | zero => rfl
    | succ k => rw [decoderAt, ih _ k (Nat.le_of_succ_le_succ hk), decProcess_pos, Function.iterate_succ_apply]

theorem iterate_nextPos_of_bounded {P : Params} {W : Nat} (hW : P.posW = some W) (k : Nat) : (nextPos P)^[k] 0 = k % 2 ^ W := by
  induction k with
  | zero => simp
  | succ k ih => rw [Function.iterate_succ_apply', ih, nextPos_of_bounded hW, Nat.mod_add_mod]

theorem iterate_nextPos_of_unbounded {P : Params} (hW : P.posW = none) (k : Nat) : (nextPos P)^[k] 0 = k := by
  induction k with
  | zero => rfl
  | succ k ih => rw [Function.iterate_succ_apply', ih, nextPos_of_unbounded hW]

/-- Settles O31: the position moves on once for each call, from 0. -/
theorem everyCallMovesThePositionByOne : Obligations.EveryCallMovesThePositionByOne := by
  refine ⟨fun P d a la0 la1 => ⟨fun W hW => ?_, fun hW => ?_⟩, fun P symbols k hk => ⟨fun W hW => ?_, fun hW => ?_⟩⟩
  · rw [decProcess_pos, nextPos_of_bounded hW]
  · rw [decProcess_pos, nextPos_of_unbounded hW]
  · rw [decoderAt_pos P _ symbols k hk, DecoderState.reset_pos, iterate_nextPos_of_bounded hW]
  · rw [decoderAt_pos P _ symbols k hk, DecoderState.reset_pos, iterate_nextPos_of_unbounded hW]

end Sys2Proof.Machine
end

section
/-! The list-based definition, symbol by symbol (spec/42_decoder.md R124), and what symbols at the level do (R116, R132). -/

namespace Sys2Proof.Machine

@[simp] theorem DecoderState.advance_lvl (P : Params) (d : DecoderState) : (d.advance P).lvl = d.lvl := rfl
@[simp] theorem DecoderState.advance_last (P : Params) (d : DecoderState) : (d.advance P).last = d.last := rfl
@[simp] theorem DecoderState.advance_counter (P : Params) (d : DecoderState) : (d.advance P).counter = d.counter := rfl
@[simp] theorem DecoderState.advance_pos (P : Params) (d : DecoderState) : (d.advance P).pos = nextPos P d.pos := rfl

@[simp] theorem decodeFrom_nil (P : Params) (d : DecoderState) : decodeFrom P d [] = (d, []) := rfl

theorem decodeFrom_cons {P : Params} {d d' : DecoderState} {a : Bit} {rest : List Bit} {e : Option Emission}
    (h : decProcess P d a rest[0]? rest[1]? = (d', e)) :
    decodeFrom P d (a :: rest) = ((decodeFrom P d' rest).1, e.toList ++ (decodeFrom P d' rest).2) := by
  simp only [decodeFrom, h]

/-- A call that emits nothing leaves the stream to the state it gives. -/
theorem decodeFrom_cons_of_silent {P : Params} {d d' : DecoderState} {a : Bit} {rest : List Bit}
    (h : decProcess P d a rest[0]? rest[1]? = (d', none)) : decodeFrom P d (a :: rest) = decodeFrom P d' rest :=
  decodeFrom_cons h

theorem decodeFrom_cons_of_sees {P : Params} {d : DecoderState} {a : Bit} (rest : List Bit) (h : d.lvl.sees a = true) :
    decodeFrom P d (a :: rest) = decodeFrom P ((d.unchanged P).advance P) rest :=
  decodeFrom_cons_of_silent (decProcess_of_sees P d a _ _ h)

/-- The level an accepted edge adopts, or the one it had, is that of the confirmed symbol. -/
theorem decProcess_lvl_of_confirmed (P : Params) (d : DecoderState) (a : Bit) :
    (decProcess P d a (some a) (some a)).1.lvl = levelOf a := by
  cases hsees : d.lvl.sees a with
  | true => simpa [decProcess_of_sees P d a _ _ hsees] using (d.lvl.sees_iff a).1 hsees
  | false => rw [decProcess_of_edge P d a hsees, DecoderState.advance_lvl, DecoderState.acceptEdge_lvl]

/-- Settles O44, by induction on the number of symbols: each counts one, and the one that reaches 10 fires the fallback. -/
theorem constantLevelFiresTheFallbackEveryTenthSymbol : Obligations.ConstantLevelFiresTheFallbackEveryTenthSymbol := by
  intro P d v n rest hmax hlvl hcounter
  induction n generalizing d with
  | zero => simp [Nat.mod_eq_of_lt hcounter, hcounter.not_ge]
  | succ n ih =>
    have hsat : satAdd P d.counter 1 = d.counter + 1 := Nat.min_eq_left (by omega)
    rw [List.replicate_succ, List.cons_append, decodeFrom_cons_of_sees _ ((d.lvl.sees_iff v).2 hlvl),
      ih ((d.unchanged P).advance P) (by simpa using hlvl) (Nat.lt_succ_of_le (d.unchanged_counter_le_nine P))]
    rcases Nat.lt_or_ge (satAdd P d.counter 1) 10 with hcount | hfallback
    · rw [DecoderState.unchanged_of_lt P d hcount]
      simp [hsat, Nat.add_assoc, Nat.add_comm 1 n]
    · have hnine : d.counter = 9 := by omega
      rw [DecoderState.unchanged_of_le P d hfallback]
      simp [hnine, show 9 + (n + 1) = n + 10 by omega]

/-- An accepted edge in one equation: what it leaves of each register, and what it emits (spec/42_decoder.md R119, R120). -/
theorem DecoderState.acceptEdge_eq (d : DecoderState) (a : Bit) :
    d.acceptEdge a =
      ({ lvl := levelOf a
         last := if d.counter = 0 then d.last else if d.last = none then some true else none
         counter := 0
         pos := d.pos },
        if d.counter = 0 then none else d.last.map fun b => ⟨!b, d.pos⟩) := by
  by_cases hzero : d.counter = 0
  · simp [acceptEdge_of_counter_zero a hzero, hzero]
  · cases hlast : d.last with
    | none => simp [acceptEdge_of_none_pending a hzero hlast, hzero]
    | some b => simp [acceptEdge_of_pending a b hzero hlast, hzero]

/-- Settles O43: the run's own symbols leave what O44 says of them, and the confirmed edge after them resolves it. -/
theorem cleanRunDecidesItsEdge : Obligations.CleanRunDecidesItsEdge := by
  intro P d v r rest hmax hlvl hzero hr p pending silent last' emitted after
  rw [constantLevelFiresTheFallbackEveryTenthSymbol P d v (r - 1) _ hmax hlvl (by omega), hzero, Nat.zero_add]
  have hpending : (if 10 ≤ r - 1 then some false else d.last) = pending := by
    simp only [pending, show 10 ≤ r - 1 ↔ 11 ≤ r by omega]
  have hsilent : (r - 1) % 10 = 0 ↔ silent := by simp only [silent]; omega
  rw [hpending]
  have hedge : decProcess P ⟨d.lvl, pending, (r - 1) % 10, p⟩ (!v) (some (!v)) (some (!v)) =
      (after, if silent then none else pending.map fun b => ⟨!b, p⟩) := by
    rw [decProcess_of_edge P _ (!v) (by simp [hlvl]), DecoderState.acceptEdge_eq]
    simp only [hsilent]
    rfl
  have hemitted : (if silent then none else pending.map fun b => ⟨!b, p⟩ : Option Emission).toList = emitted := by
    by_cases hs : silent
    · simp [emitted, hs]
    · simp [emitted, hs, Option.toList_map]
  rw [← hemitted]
  exact decodeFrom_cons hedge

end Sys2Proof.Machine
end

section
/-! Inverting the level with every symbol (spec/42_decoder.md R127). -/

namespace Sys2Proof.Machine

/-- The level that sees the other symbol. -/
def Level.invert : Level → Level
  | .unknown => .unknown
  | .l0 => .l1
  | .l1 => .l0

theorem Level.invert_sees_not (l : Level) (a : Bit) : l.invert.sees (!a) = l.sees a := by
  cases l <;> cases a <;> rfl

theorem levelOf_not (a : Bit) : levelOf (!a) = (levelOf a).invert := by cases a <;> rfl

theorem confirms_map_not (la : Option Bit) (a : Bit) : confirms (la.map (!·)) (!a) = confirms la a := by
  cases la <;> simp

/-- The registers with the level inverted. -/
def DecoderState.invert (d : DecoderState) : DecoderState := { d with lvl := d.lvl.invert }

theorem DecoderState.invert_lvl (d : DecoderState) : d.invert.lvl = d.lvl.invert := rfl

theorem DecoderState.unchanged_invert (P : Params) (d : DecoderState) : d.invert.unchanged P = (d.unchanged P).invert := by
  rcases Nat.lt_or_ge (satAdd P d.counter 1) 10 with hcount | hfallback
  · rw [DecoderState.unchanged_of_lt P d hcount, DecoderState.unchanged_of_lt P d.invert hcount]
    rfl
  · rw [DecoderState.unchanged_of_le P d hfallback, DecoderState.unchanged_of_le P d.invert hfallback]
    rfl

theorem DecoderState.acceptEdge_invert (d : DecoderState) (a : Bit) :
    d.invert.acceptEdge (!a) = ((d.acceptEdge a).1.invert, (d.acceptEdge a).2) := by
  by_cases hzero : d.counter = 0
  · rw [acceptEdge_of_counter_zero a hzero, acceptEdge_of_counter_zero (!a) (d := d.invert) hzero, levelOf_not]
    rfl
  · cases hlast : d.last with
    | none =>
      rw [acceptEdge_of_none_pending a hzero hlast, acceptEdge_of_none_pending (!a) (d := d.invert) hzero hlast, levelOf_not]
      rfl
    | some b =>
      rw [acceptEdge_of_pending a b hzero hlast, acceptEdge_of_pending (!a) b (d := d.invert) hzero hlast, levelOf_not]
      rfl

/-- A call uses its symbols only through comparisons that the inversion keeps. -/
theorem decProcess_invert (P : Params) (d : DecoderState) (a : Bit) (la0 la1 : Option Bit) :
    decProcess P d.invert (!a) (la0.map (!·)) (la1.map (!·)) =
      ((decProcess P d a la0 la1).1.invert, (decProcess P d a la0 la1).2) := by
  have hcase : decCase P d.invert (!a) (la0.map (!·)) (la1.map (!·)) =
      ((decCase P d a la0 la1).1.invert, (decCase P d a la0 la1).2) := by
    simp only [decCase, DecoderState.invert_lvl, Level.invert_sees_not, confirms_map_not]
    split_ifs
    · rw [DecoderState.unchanged_invert]
    · rfl
    · rfl
    · exact d.acceptEdge_invert a
  rw [decProcess, hcase]
  rfl

theorem decodeFrom_invert (P : Params) (d : DecoderState) (symbols : List Bit) :
    decodeFrom P d.invert (symbols.map (!·)) = ((decodeFrom P d symbols).1.invert, (decodeFrom P d symbols).2) := by
  induction symbols generalizing d with
  | nil => rfl
  | cons a rest ih => simp only [List.map_cons, decodeFrom, List.getElem?_map, decProcess_invert, ih]

/-- Settles O37: the reset registers are their own inversion. -/
theorem decoderIsBlindToPolarity : Obligations.DecoderIsBlindToPolarity := by
  intro P symbols
  have h : decodeFrom P DecoderState.reset (symbols.map (!·)) = _ := decodeFrom_invert P DecoderState.reset symbols
  rw [decodeSymbols, h, decodeSymbols]

end Sys2Proof.Machine
end

section
/-! Counters that agree up to 10 (spec/42_decoder.md R129 (d)). -/

namespace Sys2Proof.Machine

/-- Below a limit of at least 10 saturation does not change what a count says up to 10. -/
theorem min_satAdd_ten {P : Params} (hmax : 10 ≤ P.cntMax) (c n : Nat) : min (satAdd P c n) 10 = min (min c 10 + n) 10 := by
  rw [satAdd_eq]
  omega

/-- The registers agree, the counter up to 10. -/
structure DecoderState.AgreeToTen (d e : DecoderState) : Prop where
  lvl : d.lvl = e.lvl
  last : d.last = e.last
  pos : d.pos = e.pos
  counter : min d.counter 10 = min e.counter 10

namespace DecoderState.AgreeToTen

variable {P Q : Params} {d e : DecoderState}

theorem noise (h : d.AgreeToTen e) (hP : 10 ≤ P.cntMax) (hQ : 10 ≤ Q.cntMax) (n : Nat) : (d.noise P n).AgreeToTen (e.noise Q n) :=
  { h with counter := by rw [noise_counter, noise_counter, min_satAdd_ten hP, min_satAdd_ten hQ, h.counter] }

/-- The two fire the fallback together. -/
theorem unchanged (h : d.AgreeToTen e) (hP : 10 ≤ P.cntMax) (hQ : 10 ≤ Q.cntMax) :
    (d.unchanged P).AgreeToTen (e.unchanged Q) := by
  have hcounter : min (satAdd P d.counter 1) 10 = min (satAdd Q e.counter 1) 10 := (h.noise hP hQ 1).counter
  rcases Nat.lt_or_ge (satAdd P d.counter 1) 10 with hcount | hfallback
  · rw [unchanged_of_lt P d hcount, unchanged_of_lt Q e (by omega)]
    exact { h with counter := hcounter }
  · rw [unchanged_of_le P d hfallback, unchanged_of_le Q e (by omega)]
    exact { h with last := rfl, counter := rfl }

/-- The test of an accepted edge is whether the count is 0. -/
theorem acceptEdge (h : d.AgreeToTen e) (a : Bit) :
    (d.acceptEdge a).1.AgreeToTen (e.acceptEdge a).1 ∧ (d.acceptEdge a).2 = (e.acceptEdge a).2 := by
  obtain ⟨-, hlast, hpos, hcounter⟩ := h
  by_cases hzero : d.counter = 0
  · rw [acceptEdge_of_counter_zero a hzero, acceptEdge_of_counter_zero a (d := e) (by omega)]
    exact ⟨⟨rfl, hlast, hpos, hcounter⟩, rfl⟩
  · cases hd : d.last with
    | none =>
      rw [acceptEdge_of_none_pending a hzero hd, acceptEdge_of_none_pending a (d := e) (by omega) (hlast ▸ hd)]
      exact ⟨⟨rfl, rfl, hpos, rfl⟩, rfl⟩
    | some b =>
      rw [acceptEdge_of_pending a b hzero hd, acceptEdge_of_pending a b (d := e) (by omega) (hlast ▸ hd), hpos]
      exact ⟨⟨rfl, rfl, rfl, rfl⟩, rfl⟩

/-- One call keeps the agreement and emits alike. -/
theorem decProcess (h : d.AgreeToTen e) (hposW : P.posW = Q.posW) (hP : 10 ≤ P.cntMax) (hQ : 10 ≤ Q.cntMax) (a : Bit)
    (la0 la1 : Option Bit) :
    (decProcess P d a la0 la1).1.AgreeToTen (decProcess Q e a la0 la1).1 ∧
      (Machine.decProcess P d a la0 la1).2 = (Machine.decProcess Q e a la0 la1).2 := by
  have hcase : (decCase P d a la0 la1).1.AgreeToTen (decCase Q e a la0 la1).1 ∧
      (decCase P d a la0 la1).2 = (decCase Q e a la0 la1).2 := by
    unfold decCase
    rw [h.lvl]
    split_ifs
    · exact ⟨h.unchanged hP hQ, rfl⟩
    · exact ⟨h.noise hP hQ 1, rfl⟩
    · exact ⟨h.noise hP hQ 2, rfl⟩
    · exact h.acceptEdge a
  refine ⟨{ hcase.1 with pos := ?_ }, hcase.2⟩
  rw [decProcess_pos, decProcess_pos, h.pos, nextPos, nextPos, hposW]

theorem decodeFrom (h : d.AgreeToTen e) (hposW : P.posW = Q.posW) (hP : 10 ≤ P.cntMax) (hQ : 10 ≤ Q.cntMax) (symbols : List Bit) :
    (decodeFrom P d symbols).1.AgreeToTen (decodeFrom Q e symbols).1 ∧
      (Machine.decodeFrom P d symbols).2 = (Machine.decodeFrom Q e symbols).2 := by
  induction symbols generalizing d e with
  | nil => exact ⟨h, rfl⟩
  | cons a rest ih =>
    obtain ⟨hnext, hemits⟩ := h.decProcess hposW hP hQ a rest[0]? rest[1]?
    obtain ⟨hfinal, hlater⟩ := ih hnext
    exact ⟨hfinal, by simp only [Machine.decodeFrom, hemits, hlater]⟩

end DecoderState.AgreeToTen

/-- Settles O38: from reset the two decoders agree up to 10, and what is observed of them is the same. -/
theorem saturationLimitIsUnobservable : Obligations.SaturationLimitIsUnobservable := by
  intro P Q symbols hposW hP hQ
  have hreset : DecoderState.reset.AgreeToTen DecoderState.reset := ⟨rfl, rfl, rfl, rfl⟩
  obtain ⟨hfinal, hemits⟩ := hreset.decodeFrom hposW hP hQ symbols
  exact ⟨hemits, hfinal.lvl, hfinal.last, hfinal.pos⟩

end Sys2Proof.Machine
end

section
/-! Emissions are three positions apart (spec/42_decoder.md R130, R133). -/

namespace Sys2Proof.Machine

theorem nextPos_le (P : Params) (pos : Nat) : nextPos P pos ≤ pos + 1 := by
  cases hW : P.posW with
  | none => rw [nextPos_of_unbounded hW]
  | some W =>
    rw [nextPos_of_bounded hW]
    exact Nat.mod_le _ _

/-- The positions below `n` do not wrap. -/
def PositionsFit (P : Params) (n : Nat) : Prop := ∀ W, P.posW = some W → n ≤ 2 ^ W

namespace PositionsFit

variable {P : Params} {m n pos : Nat}

theorem mono (h : PositionsFit P n) (hle : m ≤ n) : PositionsFit P m := fun W hW => hle.trans (h W hW)

/-- While a later position fits, `pos` moves on without wrapping. -/
theorem nextPos_eq (h : PositionsFit P n) (hlater : pos + 2 ≤ n) : nextPos P pos = pos + 1 := by
  cases hW : P.posW with
  | none => exact nextPos_of_unbounded hW pos
  | some W => rw [nextPos_of_bounded hW, Nat.mod_eq_of_lt (hlater.trans (h W hW))]

/-- What fits before a call fits after it, with one symbol less to come. -/
theorem next (h : PositionsFit P (pos + (n + 1))) : PositionsFit P (nextPos P pos + n) :=
  h.mono (by have := nextPos_le P pos; omega)

end PositionsFit

/-- A stream that fits emits no position before its first symbol's. -/
theorem pos_le_of_mem_decodeFrom {P : Params} {d : DecoderState} {symbols : List Bit}
    (hfit : PositionsFit P (d.pos + symbols.length)) {e : Emission} (he : e ∈ (decodeFrom P d symbols).2) : d.pos ≤ e.position := by
  induction symbols generalizing d with
  | nil => simp at he
  | cons a rest ih =>
    rw [decodeFrom, List.mem_append, Option.mem_toList] at he
    rcases he with hnow | hlater
    · obtain ⟨-, -, -, -, -, hpos⟩ := (emissionNeedsConfirmedEdgeAndPendingBit P d a _ _ e).1 hnow
      exact hpos.ge
    · cases rest with
      | nil => simp at hlater
      | cons b rest =>
        have hnext : nextPos P d.pos = d.pos + 1 := hfit.nextPos_eq (by simp)
        have hge := ih (by rw [decProcess_pos]; exact hfit.next) hlater
        rw [decProcess_pos, hnext] at hge
        omega

theorem decodeFrom_cons_cons_of_sees {P : Params} {d : DecoderState} {a : Bit} (rest : List Bit) (h : d.lvl.sees a = true) :
    decodeFrom P d (a :: a :: rest) = decodeFrom P ((((d.unchanged P).advance P).unchanged P).advance P) rest := by
  rw [decodeFrom_cons_of_sees _ h, decodeFrom_cons_of_sees _ (by simpa using h)]

/-- After an emission the two symbols that confirmed it emit nothing. -/
theorem pos_add_three_le_of_emission {P : Params} {d : DecoderState} {a : Bit} {rest : List Bit}
    (hfit : PositionsFit P (d.pos + (a :: rest).length)) {e f : Emission} (he : (decProcess P d a rest[0]? rest[1]?).2 = some e)
    (hf : f ∈ (decodeFrom P (decProcess P d a rest[0]? rest[1]?).1 rest).2) : d.pos + 3 ≤ f.position := by
  obtain ⟨-, h0, h1, -, -, -⟩ := (emissionNeedsConfirmedEdgeAndPendingBit P d a _ _ e).1 he
  obtain ⟨later, rfl⟩ : ∃ later, rest = a :: a :: later := by
    match rest, h0, h1 with
    | b :: c :: later, h0, h1 => exact ⟨later, by simp_all⟩
  have hlvl := decProcess_lvl_of_confirmed P d a
  have hpos := decProcess_pos P d a (some a) (some a)
  simp only [h0, h1] at hf
  generalize (decProcess P d a (some a) (some a)).1 = d' at hlvl hpos hf
  rw [decodeFrom_cons_cons_of_sees _ (by simp [hlvl])] at hf
  generalize hd'' : ((((d'.unchanged P).advance P).unchanged P).advance P) = d'' at hf
  have hpos'' : d''.pos = nextPos P (nextPos P (nextPos P d.pos)) := by simp [← hd'', hpos]
  cases later with
  | nil => simp at hf
  | cons b later =>
    have hthree : d''.pos = d.pos + 3 := by
      simp only [List.length_cons] at hfit
      rw [hpos'', hfit.nextPos_eq (pos := d.pos) (by omega), hfit.nextPos_eq (pos := d.pos + 1) (by omega),
        hfit.nextPos_eq (pos := d.pos + 2) (by omega)]
    rw [← hthree]
    exact pos_le_of_mem_decodeFrom (hfit.mono (by simp only [hthree, List.length_cons]; omega)) hf

theorem decodeFrom_pairwise {P : Params} {d : DecoderState} {symbols : List Bit}
    (hfit : PositionsFit P (d.pos + symbols.length)) :
    (decodeFrom P d symbols).2.Pairwise fun e f => e.position + 3 ≤ f.position := by
  induction symbols generalizing d with
  | nil => exact List.Pairwise.nil
  | cons a rest ih =>
    rw [decodeFrom, List.pairwise_append]
    refine ⟨?_, ih (by rw [decProcess_pos]; exact hfit.next), fun e he f hf => ?_⟩
    · cases (decProcess P d a rest[0]? rest[1]?).2 <;> simp
    · rw [Option.mem_toList] at he
      obtain ⟨-, -, -, -, -, hpos⟩ := (emissionNeedsConfirmedEdgeAndPendingBit P d a _ _ e).1 he
      rw [hpos]
      exact pos_add_three_le_of_emission hfit he hf

/-- Settles O39, by induction on the stream: an emission silences the two symbols after it. -/
theorem emissionsAreThreePositionsApart : Obligations.EmissionsAreThreePositionsApart := by
  intro P symbols hlength
  have hfit : PositionsFit P (DecoderState.reset.pos + symbols.length) := by simpa [PositionsFit] using hlength
  exact decodeFrom_pairwise hfit

/-- Settles O40, by O39. -/
theorem positionsStrictlyIncrease : Obligations.PositionsStrictlyIncrease := fun P symbols hlength =>
  (emissionsAreThreePositionsApart P symbols hlength).imp fun h => by omega

end Sys2Proof.Machine
end

section
/-! Decoding a stream in two parts, and the single glitch (spec/42_decoder.md R124, R131). -/

namespace Sys2Proof.Machine

@[simp] theorem decoderAt_zero (P : Params) (d : DecoderState) (symbols : List Bit) : decoderAt P d symbols 0 = d := by
  cases symbols <;> rfl

theorem decoderAt_append (P : Params) (d : DecoderState) (first later : List Bit) (n : Nat) :
    decoderAt P d (first ++ later) (first.length + n) = decoderAt P (decoderAt P d (first ++ later) first.length) later n := by
  induction first generalizing d with
  | nil => simp
  | cons a first ih => simpa [decoderAt, Nat.add_right_comm _ 1 n] using ih _

/-- The first two symbols of a stream depend on the first two of its later part. -/
theorem getElem?_append_congr {first later later' : List Bit} (h0 : later[0]? = later'[0]?) (h1 : later[1]? = later'[1]?) :
    (first ++ later)[0]? = (first ++ later')[0]? ∧ (first ++ later)[1]? = (first ++ later')[1]? := by
  match first with
  | [] => exact ⟨h0, h1⟩
  | [a] => exact ⟨rfl, h0⟩
  | a :: b :: _ => exact ⟨rfl, rfl⟩

/-- Two streams that go on alike for two symbols after their common first part are decoded alike if their later parts are. -/
theorem decodeFrom_append_congr {P : Params} {d : DecoderState} {first later later' : List Bit} (h0 : later[0]? = later'[0]?)
    (h1 : later[1]? = later'[1]?)
    (hlater : decodeFrom P (decoderAt P d (first ++ later) first.length) later =
      decodeFrom P (decoderAt P d (first ++ later) first.length) later') :
    decodeFrom P d (first ++ later) = decodeFrom P d (first ++ later') := by
  induction first generalizing d with
  | nil => simpa using hlater
  | cons a first ih =>
    obtain ⟨hla0, hla1⟩ := getElem?_append_congr (first := first) h0 h1
    simp only [List.cons_append, decodeFrom, ← hla0, ← hla1]
    rw [ih (d := (decProcess P d a (first ++ later)[0]? (first ++ later)[1]?).1) hlater]

/-- Below the limit an unchanged symbol counts as a candidate that fails at step 0 does. -/
theorem DecoderState.unchanged_eq_noise {P : Params} {d : DecoderState} (h : satAdd P d.counter 1 < 10) :
    d.unchanged P = d.noise P 1 :=
  DecoderState.unchanged_of_lt P d h

/-- At the level, a flipped symbol before one that is not flipped is decoded as the unflipped one, unless that fires the fallback. -/
theorem decodeFrom_flip {P : Params} {d : DecoderState} {v : Bit} (rest : List Bit) (hlvl : d.lvl = levelOf v)
    (hcount : satAdd P d.counter 1 < 10) : decodeFrom P d ((!v) :: v :: rest) = decodeFrom P d (v :: v :: rest) := by
  have hcandidate : decProcess P d (!v) (some v) rest[0]? = ((d.noise P 1).advance P, none) :=
    decProcess_of_fail_first P d (!v) _ _ (by simp [hlvl]) (by simp)
  rw [decodeFrom_cons_of_silent hcandidate, decodeFrom_cons_of_sees (d := d) _ (by simp [hlvl]), DecoderState.unchanged_eq_noise hcount]

/-- The glitch with the five symbols of R131 first: the first of them leaves the level at `v`. -/
theorem decodeFrom_glitch {P : Params} {d : DecoderState} {v : Bit} (rest : List Bit)
    (hcount : satAdd P (decoderAt P d (v :: v :: v :: v :: v :: rest) 3).counter 1 < 10) :
    decodeFrom P d (v :: v :: v :: (!v) :: v :: rest) = decodeFrom P d (v :: v :: v :: v :: v :: rest) := by
  have hlvl := decProcess_lvl_of_confirmed P d v
  simp only [decoderAt, List.getElem?_cons_zero, List.getElem?_cons_succ] at hcount
  generalize hd' : decProcess P d v (some v) (some v) = r at hlvl hcount
  have hsees : r.1.lvl.sees v = true := by simp [hlvl]
  rw [decProcess_of_sees P r.1 v _ _ hsees, decProcess_of_sees _ _ v _ _ (by simpa using hsees)] at hcount
  rw [decodeFrom_cons (d := d) (e := r.2) (d' := r.1) hd', decodeFrom_cons (d := d) (e := r.2) (d' := r.1) hd']
  have hrest : decodeFrom P r.1 (v :: v :: (!v) :: v :: rest) = decodeFrom P r.1 (v :: v :: v :: v :: rest) := by
    rw [decodeFrom_cons_cons_of_sees _ hsees, decodeFrom_cons_cons_of_sees _ hsees, decodeFrom_flip rest (by simp [hlvl]) hcount]
  rw [hrest]

theorem eq_replicate_append_drop {symbols : List Bit} {v : Bit} {n : Nat} (h : ∀ i < n, symbols[i]? = some v) :
    symbols = List.replicate n v ++ symbols.drop n := by
  induction n generalizing symbols with
  | zero => rfl
  | succ n ih =>
    cases symbols with
    | nil => simpa using h 0 (Nat.zero_lt_succ n)
    | cons a rest =>
      have ha : a = v := by simpa using h 0 (Nat.zero_lt_succ n)
      have hrest := ih (symbols := rest) fun i hi => by simpa using h (i + 1) (Nat.succ_lt_succ hi)
      rw [ha, List.replicate_succ, List.drop_succ_cons, List.cons_append, ← hrest]

/-- Settles O42: the stream up to three symbols before the glitch sees nothing of it, and the rest is `decodeFrom_glitch`. -/
theorem singleGlitchInsideARunIsInvisible : Obligations.SingleGlitchInsideARunIsInvisible := by
  intro P symbols v g hg hlength hrun hcount
  obtain ⟨k, rfl⟩ := Nat.exists_eq_add_of_le' hg
  have hwindow : symbols.drop k = List.replicate 5 v ++ (symbols.drop k).drop 5 :=
    eq_replicate_append_drop fun i hi => by rw [List.getElem?_drop]; exact hrun (k + i) (by omega) (by omega)
  obtain ⟨first, rest, hk, rfl⟩ : ∃ first rest, first.length = k ∧ symbols = first ++ v :: v :: v :: v :: v :: rest :=
    ⟨symbols.take k, (symbols.drop k).drop 5, List.length_take_of_le (by omega), by
      conv_lhs => rw [← List.take_append_drop k symbols, hwindow]
      rfl⟩
  subst hk
  rw [decoderAt_append] at hcount
  have hset : (first ++ v :: v :: v :: v :: v :: rest).set (first.length + 3) (!v) = first ++ v :: v :: v :: (!v) :: v :: rest := by
    rw [List.set_append_right _ _ (Nat.le_add_right _ _), Nat.add_sub_cancel_left]
    rfl
  rw [hset]
  exact Eq.symm (decodeFrom_append_congr (by rfl) (by rfl) (decodeFrom_glitch rest hcount).symm)

end Sys2Proof.Machine
end

section
/-! The streaming form against the list-based definition (spec/42_decoder.md R122 to R125). -/

namespace Sys2Proof.Machine

/-- The symbols the window holds, the older first. -/
def State.held (s : State) : List Bit := [s.win[0], s.win[1]].take s.winN

theorem State.held_of_empty {s : State} (hw : s.winN = 0) : s.held = [] := by simp [State.held, hw]
theorem State.held_of_half {s : State} (hw : s.winN = 1) : s.held = [s.win[0]] := by simp [State.held, hw]
theorem State.held_of_full {s : State} (hw : s.winN = 2) : s.held = [s.win[0], s.win[1]] := by simp [State.held, hw]

/-- Draining is decoding the held symbols as the end of a stream. -/
theorem decodeFrom_held (s : State) : decodeFrom s.par s.dec s.held = ((decDrain s).1.dec, []) := by
  rcases winN_cases s.winN with hw | hw | hw
  · rw [State.held_of_empty hw, decDrain_empty s hw]
    rfl
  · simp [State.held_of_half hw, decDrain_half s hw, decodeFrom]
  · simp [State.held_of_full hw, decDrain_full s hw, decodeFrom]

/-- A delivery performs the call, if any, of the list-based definition whose lookahead it completes. -/
theorem decodeFrom_held_append_cons (s : State) (b : Bit) (later : List Bit) :
    decodeFrom s.par s.dec (s.held ++ b :: later) =
      ((decodeFrom s.par (s.deliver b).dec ((s.deliver b).held ++ later)).1,
        (s.deliver b).out.toList ++ (decodeFrom s.par (s.deliver b).dec ((s.deliver b).held ++ later)).2) := by
  rcases winN_cases s.winN with hw | hw | hw
  · have hnext : (s.deliver b).held = [b] := by
      rw [State.held_of_half] <;> simp [State.deliver, decAccept_empty s b hw]
    rw [hnext, State.held_of_empty hw]
    simp [State.deliver, decAccept_empty s b hw]
  · have hnext : (s.deliver b).held = [s.win[0], b] := by
      rw [State.held_of_full] <;> simp [State.deliver, decAccept_half s b hw]
    rw [hnext, State.held_of_half hw]
    simp [State.deliver, decAccept_half s b hw]
  · have hnext : (s.deliver b).held = [s.win[1], b] := by
      rw [State.held_of_full] <;> simp [State.deliver, decAccept_full s b hw, hw]
    rw [hnext, State.held_of_full hw]
    rw [State.deliver, decAccept_full s b hw]
    exact decodeFrom_cons rfl

/-- The command words of SYM of each symbol and then END. -/
def symsThenEnd (symbols : List Byte) : List CmdWord := symbols.map (fun b => encode (.sym b)) ++ [encode .endStream]

theorem symsThenEnd_cons (b : Byte) (later : List Byte) : symsThenEnd (b :: later) = encode (.sym b) :: symsThenEnd later := rfl

/-- From any open state, SYM of each symbol and then END decode what the window holds followed by the symbols. -/
theorem runWords_symsThenEnd {s : State} (hopen : s.ended = false) (symbols : List Byte) :
    (runWords s (symsThenEnd symbols)).2 = (decodeFrom s.par s.dec (s.held ++ symbols.map symbolOf)).2 ∧
      (runWords s (symsThenEnd symbols)).1.dec = (decodeFrom s.par s.dec (s.held ++ symbols.map symbolOf)).1 := by
  induction symbols generalizing s with
  | nil =>
    have hend : exec (decode (encode .endStream)) (s.presenting []) = .next (s.presenting []).endOfStream := by
      rw [decode_encode, exec_endStream, State.unlessEnded_of_open (s.presenting []) _ hopen]
    have hdrain : decodeFrom s.par s.dec s.held = ((decDrain (s.presenting [])).1.dec, []) := decodeFrom_held (s.presenting [])
    rw [symsThenEnd, List.map_nil, List.map_nil, List.nil_append, List.append_nil, runWords_cons _ _ _ _ hend, hdrain]
    exact ⟨rfl, rfl⟩
  | cons b later ih =>
    have hsym : exec (decode (encode (.sym b))) (s.presenting (symsThenEnd later)) =
        .next ((s.presenting (symsThenEnd later)).deliver (symbolOf b)) := by
      rw [decode_encode, exec_sym, State.unlessEnded_of_open (s.presenting (symsThenEnd later)) _ hopen]
    obtain ⟨hpar, -, -, hended, -⟩ := (s.presenting (symsThenEnd later)).deliver_frame (symbolOf b)
    obtain ⟨hemissions, hdec⟩ := ih (hended.trans hopen)
    have hcall : decodeFrom s.par s.dec (s.held ++ symbolOf b :: later.map symbolOf) = _ :=
      decodeFrom_held_append_cons (s.presenting (symsThenEnd later)) (symbolOf b) (later.map symbolOf)
    rw [hpar] at hemissions hdec
    rw [symsThenEnd_cons, List.map_cons, runWords_cons _ _ _ _ hsym, hcall]
    exact ⟨congrArg _ hemissions, hdec⟩

/-- Settles O45: the run of an open state whose window holds nothing. -/
theorem streamingDecoderMatchesTheReference : Obligations.StreamingDecoderMatchesTheReference := by
  intro s symbols hopen hw
  have h := runWords_symsThenEnd hopen symbols
  rwa [State.held_of_empty hw] at h

end Sys2Proof.Machine
end

section
/-! What each operation does while the stream is open (spec/43_stream_ops.md R141 to R144). -/

namespace Sys2Proof.Machine

/-- Settles O6: a step with a word presented, one without, and the word `withFetchWord` puts first. -/
theorem stepRunsTheDecodedOperation : Obligations.StepRunsTheDecodedOperation := by
  refine ⟨step_of_cmds, fun s hnone => ?idle, fun s nbits w i hdecode => ?fetched⟩
  case idle =>
    have hfetch : s.fetch = (idleWord, s) := by rw [State.fetch, hnone]
    rw [step, hfetch]
    exact congrArg (exec · s) (decode_encode .idle)
  case fetched =>
    have hword : decode (BitVec.ofNat 11 (tableWord nbits w)) = i := by
      rw [decodeTableWord, decodeNumber] at hdecode
      by_cases hfits : tableWord nbits w < 2 ^ 11
      · rw [if_pos hfits] at hdecode
        exact Option.some.inj hdecode
      · rw [if_neg hfits] at hdecode
        cases hdecode
    rw [← hword]
    exact step_of_cmds _ _ _ rfl

/-- A word with `cw[10] = 1` is RESET, whatever its other bits (spec/30_encoding.md R71). -/
theorem decode_eq_reset_of_rst {cw : CmdWord} (hrst : cw.getLsbD 10 = true) : decode cw = .reset := by
  obtain ⟨op, data, rfl⟩ := exists_commandWord cw
  rw [getLsbD_commandWord_ten] at hrst
  exact decode_commandWord_reset hrst data

/-- Settles O8: the reset registers are those of the table, and they depend on `P` only. -/
theorem resetGivesEveryRegisterItsTableValue : Obligations.ResetGivesEveryRegisterItsTableValue :=
  ⟨fun _ => rfl, fun _ => decode_eq_reset_of_rst, resetAndEndAreIdempotent.1, rfl⟩

section
variable {s : State} (hopen : s.ended = false)
include hopen

theorem exec_push_of_open (data : Byte) : exec (.push data) s = .next (s.pushSample (sampleOf data)) := by
  rw [exec_push, State.unlessEnded_of_open s _ hopen]

theorem exec_sym_of_open (data : Byte) : exec (.sym data) s = .next (s.deliver (symbolOf data)) := by
  rw [exec_sym, State.unlessEnded_of_open s _ hopen]

theorem exec_endStream_of_open : exec .endStream s = .next s.endOfStream := by
  rw [exec_endStream, State.unlessEnded_of_open s _ hopen]

end

/-- Settles O9: a dropped and a kept PUSH, with the sum written out. -/
theorem pushRunsTheThreeStages : Obligations.PushRunsTheThreeStages := by
  intro s data hopen b fir' y s1
  rw [exec_push_of_open hopen]
  refine ⟨fun hdropped => ?_, fun hkept => ?_⟩
  · exact congrArg _ (s.pushSample_dropped b hdropped)
  · have hy : s.fir.output s.par.kernel b = y := firSum_eq s.par.kernel fir' s.fir.cursor
    have hpush : s.pushSample b = s1.deliver (slice s.par.threshold y) := hy ▸ s.pushSample_kept b hkept
    exact congrArg _ hpush

/-- A delivery neither reads nor writes the filter registers, `skip_cnt` and the words to come, and it overwrites the output
(spec/43_stream_ops.md R143). -/
theorem State.deliver_with (s : State) (f : FilterState) (k : Nat) (ws : List CmdWord) (e : Option Emission) (b : Bit) :
    State.deliver { s with fir := f, skipCnt := k, cmds := ws, out := e } b =
      { s.deliver b with fir := f, skipCnt := k, cmds := ws } := by
  rcases winN_cases s.winN with hw | hw | hw
  · rw [State.deliver, State.deliver, decAccept_empty s b hw,
      decAccept_empty { s with fir := f, skipCnt := k, cmds := ws, out := e } b hw]
    rfl
  · rw [State.deliver, State.deliver, decAccept_half s b hw,
      decAccept_half { s with fir := f, skipCnt := k, cmds := ws, out := e } b hw]
    rfl
  · rw [State.deliver, State.deliver, decAccept_full s b hw,
      decAccept_full { s with fir := f, skipCnt := k, cmds := ws, out := e } b hw]
    rfl

theorem State.deliver_withFilter (s : State) (f : FilterState) (k : Nat) (b : Bit) :
    State.deliver { s with fir := f, skipCnt := k } b = { s.deliver b with fir := f, skipCnt := k } := by
  obtain ⟨-, -, -, -, hcmds⟩ := s.deliver_frame b
  calc State.deliver { s with fir := f, skipCnt := k } b
      = { s.deliver b with fir := f, skipCnt := k, cmds := s.cmds } := s.deliver_with f k s.cmds s.out b
    _ = { s.deliver b with fir := f, skipCnt := k } := by rw [← hcmds]

theorem State.deliver_withFir (s : State) (f : FilterState) (b : Bit) :
    State.deliver { s with fir := f } b = { s.deliver b with fir := f } := by
  obtain ⟨-, -, hskip, -, -⟩ := s.deliver_frame b
  calc State.deliver { s with fir := f } b
      = { s.deliver b with fir := f, skipCnt := s.skipCnt } := s.deliver_withFilter f s.skipCnt b
    _ = { s.deliver b with fir := f } := by rw [← hskip]

/-- Settles O10: SYM delivers, and a delivery commutes with writing the filter side. -/
theorem symDeliversItsSymbol : Obligations.SymDeliversItsSymbol := by
  refine ⟨fun s data hopen => exec_sym_of_open hopen data, fun s t data fir' skip' ht => ?_⟩
  rcases Bool.eq_false_or_eq_true s.ended with hs | hs
  · rw [exec_of_ended s _ hs Instr.noConfusion] at ht
    cases ht
    exact exec_of_ended { s with fir := fir', skipCnt := skip' } (.sym data) hs Instr.noConfusion
  · rw [exec_sym_of_open hs] at ht
    cases ht
    rw [exec_sym_of_open (s := { s with fir := fir', skipCnt := skip' }) hs, State.deliver_withFilter]

/-- Settles O11: both deliver the same symbol, the PUSH with the new filter registers. -/
theorem keptPushActsAsSymOfItsSlice : Obligations.KeptPushActsAsSymOfItsSlice := by
  intro s t u data data' hkept ht hsymbol hu
  cases hs : s.ended with
  | true =>
    rw [exec_of_ended s _ hs Instr.noConfusion] at ht hu
    cases ht; cases hu
    rfl
  | false =>
    rw [exec_push_of_open hs] at ht
    rw [exec_sym_of_open hs] at hu
    cases ht; cases hu
    rw [State.pushSample_kept s _ hkept, State.deliver_withFir, symbolOf, hsymbol]
    rfl

/-- Settles O12: END by the number of symbols the window holds; no call of the drain changes `lvl`. -/
theorem endDrainsTheWindowAndCloses : Obligations.EndDrainsTheWindowAndCloses := by
  intro s hopen
  rw [exec_endStream_of_open hopen]
  refine ⟨fun hw => ?_, fun hw => ?_, fun hw => ?_, fun t ht => ?_⟩
  · rw [State.endOfStream, decDrain_empty s hw]
  · rw [State.endOfStream, decDrain_half s hw]
  · rw [State.endOfStream, decDrain_full s hw]
  · cases ht
    exact decDrain_lvl s

end Sys2Proof.Machine
end

section
/-! What an operation leaves unchanged (spec/43_stream_ops.md R142 to R145), and when it drives a pair (R149). -/

namespace Sys2Proof.Machine

/-- Settles O15: only a PUSH writes the filter side, and of the history one slot. -/
theorem frameOfTheFilterSide : Obligations.FrameOfTheFilterSide := by
  refine ⟨fun s t data i hi ht => ?kept, fun s t data ht => ?push⟩
  case kept =>
    obtain ⟨hpar, hcmds⟩ := exec_par_cmds i s t ht
    refine ⟨hpar, hcmds, ?_⟩
    rcases hi with rfl | rfl | rfl
    · cases ht
      exact ⟨rfl, rfl⟩
    · cases ht
      obtain ⟨-, hfir, hskip, -, -⟩ := s.deliver_frame (symbolOf data)
      exact State.unlessEnded_of_both (fun u => u.fir = s.fir ∧ u.skipCnt = s.skipCnt) ⟨rfl, rfl⟩ ⟨hfir, hskip⟩
    · cases ht
      obtain ⟨-, hfir, hskip, -, -⟩ := s.endOfStream_frame
      exact State.unlessEnded_of_both (fun u => u.fir = s.fir ∧ u.skipCnt = s.skipCnt) ⟨rfl, rfl⟩ ⟨hfir, hskip⟩
  case push =>
    obtain ⟨hpar, hcmds⟩ := exec_par_cmds _ s t ht
    refine ⟨hpar, hcmds, ?_⟩
    cases hs : s.ended with
    | true =>
      rw [exec_of_ended s _ hs Instr.noConfusion] at ht
      cases ht
      exact ⟨fun _ _ => rfl, id⟩
    | false =>
      rw [exec_push_of_open hs] at ht
      cases ht
      obtain ⟨hfir, hskip, -⟩ := s.pushSample_filterSide (sampleOf data)
      rw [hfir, hskip]
      exact ⟨s.fir.push_slot_other _, fun hzero => by rw [hzero]⟩

/-- While the window fills a delivery processes nothing (spec/42_decoder.md R122). -/
theorem State.deliver_dec_of_filling {s : State} (hw : s.winN ≠ 2) (b : Bit) : (s.deliver b).dec = s.dec := by
  rcases winN_cases s.winN with hempty | hhalf | hfull
  · rw [State.deliver, decAccept_empty s b hempty]; rfl
  · rw [State.deliver, decAccept_half s b hhalf]; rfl
  · exact absurd hfull hw

theorem State.pushSample_dec_of_filling {s : State} (hw : s.winN ≠ 2) (b : Bit) : (s.pushSample b).dec = s.dec := by
  rcases Nat.eq_zero_or_pos s.skipCnt with hkept | hdropped
  · rw [State.pushSample_kept s b hkept]
    exact State.deliver_dec_of_filling (s := { s with fir := s.fir.push b }) hw _
  · rw [State.pushSample_dropped s b hdropped]

/-- Settles O16: what is delivered by no operation, by a dropped PUSH, into a filling window, or drained. -/
theorem frameOfTheDecoderSide : Obligations.FrameOfTheDecoderSide := by
  refine ⟨fun s t ht => ?idle, fun s t data hdropped ht => ?dropped, fun s t data i hi ht => ?filling, fun s t ht => ?endStream⟩
  case idle =>
    cases ht
    exact ⟨rfl, rfl, rfl, rfl⟩
  case dropped =>
    cases ht
    exact State.unlessEnded_of_both (fun u => u.winN = s.winN ∧ u.win = s.win ∧ u.dec = s.dec ∧ u.ended = s.ended)
      ⟨rfl, rfl, rfl, rfl⟩ (by rw [s.pushSample_dropped _ hdropped]; exact ⟨rfl, rfl, rfl, rfl⟩)
  case filling =>
    rcases hi with rfl | rfl
    · cases ht
      exact State.unlessEnded_of_both (fun u => u.ended = s.ended ∧ (s.winN ≠ 2 → u.dec = s.dec)) ⟨rfl, fun _ => rfl⟩
        ⟨(s.pushSample_filterSide _).2.2, fun hw => State.pushSample_dec_of_filling hw _⟩
    · cases ht
      obtain ⟨-, -, -, hended, -⟩ := s.deliver_frame (symbolOf data)
      exact State.unlessEnded_of_both (fun u => u.ended = s.ended ∧ (s.winN ≠ 2 → u.dec = s.dec)) ⟨rfl, fun _ => rfl⟩
        ⟨hended, fun hw => State.deliver_dec_of_filling hw _⟩
  case endStream =>
    cases ht
    obtain ⟨-, -, -, hwin, -⟩ := s.endOfStream_frame
    exact State.unlessEnded_of_both (fun u => u.win = s.win ∧ u.dec.lvl = s.dec.lvl) ⟨rfl, rfl⟩ ⟨hwin, decDrain_lvl s⟩

/-- An operation that drives a pair is a PUSH or a SYM of an open stream, and delivers a symbol; the filter registers may be new. -/
theorem exec_delivers_of_out {s t : State} {i : Instr} {e : Emission} (ht : exec i s = .next t) (hout : t.out = some e) :
    (∃ data, i = .push data ∨ i = .sym data) ∧ s.ended = false ∧
      ∃ (f : FilterState) (b : Bit), t = State.deliver { s with fir := f } b := by
  rcases Bool.eq_false_or_eq_true s.ended with hs | hs
  · by_cases hreset : i = .reset
    · subst hreset
      cases ht; cases hout
    · rw [exec_of_ended s i hs hreset] at ht
      cases ht; cases hout
  · cases i with
    | reset => cases ht; cases hout
    | idle => cases ht; cases hout
    | push data =>
      rw [exec_push_of_open hs] at ht
      cases ht
      rcases Nat.eq_zero_or_pos s.skipCnt with hkept | hdropped
      · exact ⟨⟨data, .inl rfl⟩, hs, s.fir.push (sampleOf data), _, s.pushSample_kept (sampleOf data) hkept⟩
      · rw [s.pushSample_dropped _ hdropped] at hout
        cases hout
    | sym data =>
      rw [exec_sym_of_open hs] at ht
      cases ht
      exact ⟨⟨data, .inr rfl⟩, hs, s.fir, symbolOf data, rfl⟩
    | endStream =>
      rw [exec_endStream_out ht] at hout
      cases hout

/-- A delivery that drives a pair found a full window whose two symbols equal the delivered one (spec/42_decoder.md R117, R122). -/
theorem State.deliver_of_out {s : State} {b : Bit} {e : Emission} (hout : (s.deliver b).out = some e) :
    s.winN = 2 ∧ e.position = s.dec.pos ∧ s.win[1] = s.win[0] ∧ (s.deliver b).win[1] = s.win[0] ∧
      (s.deliver b).dec.pos = nextPos s.par e.position := by
  rcases winN_cases s.winN with hw | hw | hw
  · rw [State.deliver, decAccept_empty s b hw] at hout; cases hout
  · rw [State.deliver, decAccept_half s b hw] at hout; cases hout
  · rw [State.deliver, decAccept_full s b hw] at hout ⊢
    obtain ⟨-, h0, h1, -, -, hpos⟩ := (emissionNeedsConfirmedEdgeAndPendingBit s.par s.dec s.win[0] _ _ e).1 hout
    exact ⟨hw, hpos, Option.some.inj h0, Option.some.inj h1, by rw [hpos]; exact decProcess_pos ..⟩

/-- Settles O47: the delivery behind every driven pair. -/
theorem emissionAppearsTwoSymbolsLater : Obligations.EmissionAppearsTwoSymbolsLater := by
  intro s t i e ht hout
  obtain ⟨hi, hopen, f, b, rfl⟩ := exec_delivers_of_out ht hout
  exact ⟨hi, hopen, State.deliver_of_out hout⟩

end Sys2Proof.Machine
end

section
/-! Runs (spec/43_stream_ops.md R141, R145, R146): an operation reads neither the output of the step before nor the words still to
come, so a run is its operations one after the other, and IDLE steps drop out of it. -/

namespace Sys2Proof.Machine

section
variable (s : State) (ws : List CmdWord) (e : Option Emission)

theorem State.deliver_withPorts (b : Bit) : State.deliver { s with cmds := ws, out := e } b = { s.deliver b with cmds := ws } := by
  obtain ⟨-, hfir, hskip, -, -⟩ := s.deliver_frame b
  calc State.deliver { s with cmds := ws, out := e } b
      = { s.deliver b with fir := s.fir, skipCnt := s.skipCnt, cmds := ws } := s.deliver_with s.fir s.skipCnt ws e b
    _ = { s.deliver b with cmds := ws } := by rw [← hfir, ← hskip]

theorem State.pushSample_withPorts (b : Bit) :
    State.pushSample { s with cmds := ws, out := e } b = { s.pushSample b with cmds := ws } := by
  rcases Nat.eq_zero_or_pos s.skipCnt with hkept | hdropped
  · rw [State.pushSample_kept s b hkept, State.pushSample_kept { s with cmds := ws, out := e } b hkept]
    exact State.deliver_withPorts { s with fir := s.fir.push b } ws e _
  · rw [State.pushSample_dropped s b hdropped, State.pushSample_dropped { s with cmds := ws, out := e } b hdropped]

theorem State.endOfStream_withPorts : State.endOfStream { s with cmds := ws, out := e } = { s.endOfStream with cmds := ws } := by
  rcases winN_cases s.winN with hw | hw | hw
  · rw [State.endOfStream, State.endOfStream, decDrain_empty s hw, decDrain_empty { s with cmds := ws, out := e } hw]
  · rw [State.endOfStream, State.endOfStream, decDrain_half s hw, decDrain_half { s with cmds := ws, out := e } hw]
  · rw [State.endOfStream, State.endOfStream, decDrain_full s hw, decDrain_full { s with cmds := ws, out := e } hw]

theorem State.unlessEnded_withPorts (effect : State) :
    State.unlessEnded { s with cmds := ws, out := e } { effect with cmds := ws } = { s.unlessEnded effect with cmds := ws } := by
  rcases Bool.eq_false_or_eq_true s.ended with hs | hs
  · rw [State.unlessEnded_of_ended s _ hs, State.unlessEnded_of_ended { s with cmds := ws, out := e } _ hs]
    rfl
  · rw [State.unlessEnded_of_open s _ hs, State.unlessEnded_of_open { s with cmds := ws, out := e } _ hs]

/-- No operation reads the words to come or the output of the step before; each leaves the words and overwrites the output. -/
theorem exec_withPorts {s t : State} {i : Instr} (ht : exec i s = .next t) :
    exec i { s with cmds := ws, out := e } = .next { t with cmds := ws } := by
  cases i with
  | reset => cases ht; rfl
  | idle => cases ht; rfl
  | push data => cases ht; rw [exec_push, State.pushSample_withPorts, State.unlessEnded_withPorts]
  | sym data => cases ht; rw [exec_sym, State.deliver_withPorts, State.unlessEnded_withPorts]
  | endStream => cases ht; rw [exec_endStream, State.endOfStream_withPorts, State.unlessEnded_withPorts]

end

/-- Every operation completes (spec/60_exceptions.md R160). -/
theorem exists_exec_eq_next (i : Instr) (s : State) : ∃ t, exec i s = .next t := by
  cases i with
  | reset => exact ⟨_, exec_reset s⟩
  | idle => exact ⟨_, exec_idle s⟩
  | push data => exact ⟨_, exec_push data s⟩
  | sym data => exact ⟨_, exec_sym data s⟩
  | endStream => exact ⟨_, exec_endStream s⟩

/-- The first word's operation, wherever its state took its words from and whatever it drove before, then the rest. -/
theorem runWords_drive_cons {s t : State} {cw : CmdWord} (e : Option Emission) (ws : List CmdWord)
    (ht : exec (decode cw) s = .next t) :
    runWords (s.drive e) (cw :: ws) = ((runWords t ws).1, t.out.toList ++ (runWords t ws).2) :=
  runWords_cons (s.drive e) (t.presenting ws) cw ws (exec_withPorts (s := s) ws e ht)

theorem runWords_cons_of_exec {s t : State} {cw : CmdWord} (ws : List CmdWord) (ht : exec (decode cw) s = .next t) :
    runWords s (cw :: ws) = ((runWords t ws).1, t.out.toList ++ (runWords t ws).2) :=
  runWords_drive_cons s.out ws ht

/-- Settles O51: the RESET leaves the two states equal but for the words that stood in them. -/
theorem resetForgetsEverythingButTheParameters : Obligations.ResetForgetsEverythingButTheParameters := by
  intro s s' cw ws hpar hreset
  have hforget (u : State) : runWords u (cw :: ws) = runWords (State.resetOf u.par) ws := by
    rw [runWords_cons_of_exec (t := u.toReset) ws (by rw [hreset, exec_reset])]
    rfl
  have hrun : runWords s (cw :: ws) = runWords s' (cw :: ws) := by rw [hforget, hforget, hpar]
  exact ⟨congrArg Prod.fst hrun, congrArg Prod.snd hrun⟩

/-- What a run leaves in the registers, its last output taken away, and the pairs it drives. -/
def registersAndPairs (s : State) (ws : List CmdWord) : State × List Emission := ((stateAfter s ws).drive none, emissionsOf s ws)

theorem registersAndPairs_nil (s : State) : registersAndPairs s [] = ((s.presenting []).drive none, []) := rfl

theorem registersAndPairs_cons {s t : State} {cw : CmdWord} (ws : List CmdWord) (ht : exec (decode cw) s = .next t) :
    registersAndPairs s (cw :: ws) = ((registersAndPairs t ws).1, t.out.toList ++ (registersAndPairs t ws).2) := by
  simp only [registersAndPairs, stateAfter, emissionsOf, runWords_cons_of_exec ws ht]

/-- A run does not depend on the output driven before it. -/
theorem registersAndPairs_drive (s : State) (e : Option Emission) (ws : List CmdWord) :
    registersAndPairs (s.drive e) ws = registersAndPairs s ws := by
  cases ws with
  | nil => rfl
  | cons cw ws =>
    obtain ⟨t, ht⟩ := exists_exec_eq_next (decode cw) s
    simp only [registersAndPairs, stateAfter, emissionsOf, runWords_drive_cons e ws ht, runWords_cons_of_exec ws ht]

theorem State.sameRegisters_of_drive_eq {s t : State} (h : s.drive none = t.drive none) : s.SameRegisters t := by
  simp only [State.drive, State.mk.injEq] at h
  obtain ⟨hpar, hfir, hskip, hwinN, hwin, hdec, hended, -, -⟩ := h
  exact ⟨hpar, hfir, hskip, hwinN, hwin, hdec, hended⟩

/-- An operation that only drives no output drops out of a run. -/
theorem registersAndPairs_cons_of_silent {s : State} {cw : CmdWord} (ws : List CmdWord)
    (hsilent : exec (decode cw) s = .next (s.drive none)) : registersAndPairs s (cw :: ws) = registersAndPairs s ws := by
  rw [registersAndPairs_cons ws hsilent, registersAndPairs_drive]
  rfl

/-- IDLE steps drop out of a run, wherever they stand (spec/43_stream_ops.md R145). -/
theorem registersAndPairs_filter_idle (s : State) (ws : List CmdWord) :
    registersAndPairs s (ws.filter fun cw => decode cw != .idle) = registersAndPairs s ws := by
  induction ws generalizing s with
  | nil => rfl
  | cons cw ws ih =>
    by_cases hidle : decode cw = .idle
    · rw [List.filter_cons_of_neg (by simp [hidle]), ih, registersAndPairs_cons_of_silent ws (by rw [hidle, exec_idle])]
    · obtain ⟨t, ht⟩ := exists_exec_eq_next (decode cw) s
      rw [List.filter_cons_of_pos (by simp [hidle]), registersAndPairs_cons _ ht, registersAndPairs_cons _ ht, ih]

/-- Settles O49: one IDLE step, and a run without its IDLE steps. -/
theorem idleChangesNothingAndMayBeInsertedAnywhere : Obligations.IdleChangesNothingAndMayBeInsertedAnywhere := by
  refine ⟨exec_idle, fun s ws => ?_⟩
  have h := registersAndPairs_filter_idle s ws
  exact ⟨State.sameRegisters_of_drive_eq (congrArg Prod.fst h).symm, (congrArg Prod.snd h).symm⟩

/-- Settles O50: in an ended stream every word but RESET drops out of the run. -/
theorem endedStreamStaysSilent : Obligations.EndedStreamStaysSilent := by
  intro s ws hended hreset
  have h : registersAndPairs s ws = registersAndPairs s [] := by
    induction ws with
    | nil => rfl
    | cons cw ws ih =>
      have hsilent := exec_of_ended s (decode cw) hended (hreset cw List.mem_cons_self)
      rw [registersAndPairs_cons_of_silent ws hsilent, ih fun cw' hcw' => hreset cw' (List.mem_cons_of_mem cw hcw')]
  rw [registersAndPairs_nil] at h
  have hregisters : State.SameRegisters (stateAfter s ws) (s.presenting []) :=
    State.sameRegisters_of_drive_eq (congrArg Prod.fst h)
  exact ⟨hregisters, congrArg Prod.snd h⟩

end Sys2Proof.Machine
end

section
/-! How many emissions a stream of symbols has (spec/42_decoder.md R130, spec/43_stream_ops.md R150). -/

namespace Sys2Proof.Machine

/-- After an emission the two symbols that confirmed it are at the level and emit nothing; decoding goes on behind them. -/
theorem decodeFrom_of_emission {P : Params} {d : DecoderState} {a : Bit} {rest : List Bit} {e : Emission}
    (he : (decProcess P d a rest[0]? rest[1]?).2 = some e) :
    ∃ (d' : DecoderState) (later : List Bit), rest = a :: a :: later ∧
      (decodeFrom P d (a :: rest)).2 = e :: (decodeFrom P d' later).2 := by
  obtain ⟨-, h0, h1, -, -, -⟩ := (emissionNeedsConfirmedEdgeAndPendingBit P d a _ _ e).1 he
  match rest, h0, h1 with
  | b :: c :: later, h0, h1 =>
    obtain rfl : b = a := Option.some.inj h0
    obtain rfl : c = b := Option.some.inj h1
    obtain ⟨d₁, hcall⟩ : ∃ d₁, decProcess P d c (some c) (some c) = (d₁, some e) := ⟨_, Prod.ext rfl he⟩
    have hlvl : d₁.lvl = levelOf c := by
      have h := decProcess_lvl_of_confirmed P d c
      rwa [hcall] at h
    refine ⟨(((d₁.unchanged P).advance P).unchanged P).advance P, later, rfl, ?_⟩
    rw [decodeFrom_cons (rest := c :: c :: later) hcall, decodeFrom_cons_cons_of_sees later ((d₁.lvl.sees_iff c).2 hlvl)]
    rfl

/-- An emission takes three symbols, the candidate and the two that confirm it. -/
theorem three_mul_length_decodeFrom_le (P : Params) (d : DecoderState) (symbols : List Bit) :
    3 * (decodeFrom P d symbols).2.length ≤ symbols.length := by
  induction hn : symbols.length using Nat.strong_induction_on generalizing d symbols with
  | _ n ih =>
    subst hn
    cases symbols with
    | nil => exact Nat.le_refl 0
    | cons a rest =>
      cases he : (decProcess P d a rest[0]? rest[1]?).2 with
      | none =>
        rw [decodeFrom_cons_of_silent (Prod.ext rfl he)]
        exact (ih rest.length (Nat.lt_succ_self _) _ rest rfl).trans (Nat.le_succ _)
      | some e =>
        obtain ⟨d', later, rfl, hemissions⟩ := decodeFrom_of_emission he
        have hlater := ih later.length (by simp only [List.length_cons]; omega) d' later rfl
        simp only [hemissions, List.length_cons]
        omega

/-- Settles O41: the stream from the reset registers. -/
theorem atMostOneEmissionPerThreeSymbols : Obligations.AtMostOneEmissionPerThreeSymbols :=
  fun P symbols => three_mul_length_decodeFrom_le P DecoderState.reset symbols

end Sys2Proof.Machine
end

section
/-! Runs of PUSH from an open state (spec/43_stream_ops.md R147, R148, R150). -/

namespace Sys2Proof.Machine

/-! ### What a PUSH counts -/

/-- A delivery makes the window hold one symbol more, at most two. -/
theorem State.deliver_winN (s : State) (b : Bit) : (s.deliver b).winN.val = min 2 (s.winN.val + 1) := by
  rcases winN_cases s.winN with hw | hw | hw
  · rw [State.deliver, decAccept_empty s b hw, hw]
    rfl
  · rw [State.deliver, decAccept_half s b hw, hw]
    rfl
  · rw [State.deliver, decAccept_full s b hw, hw]
    rfl

/-- A delivery moves `pos` on by one once the window was full. -/
theorem State.deliver_pos (s : State) (b : Bit) : (s.deliver b).dec.pos = (nextPos s.par)^[s.winN.val + 1 - 2] s.dec.pos := by
  rcases winN_cases s.winN with hw | hw | hw
  · rw [State.deliver, decAccept_empty s b hw, hw]
    rfl
  · rw [State.deliver, decAccept_half s b hw, hw]
    rfl
  · rw [State.deliver, decAccept_full s b hw, hw]
    exact decProcess_pos ..

/-- A PUSH delivers `1 - skip_cnt` symbols: one when `skip_cnt = 0`, none while outputs are dropped. -/
theorem State.pushSample_counts (s : State) (b : Bit) :
    (s.pushSample b).winN.val = min 2 (s.winN.val + (1 - s.skipCnt)) ∧
      (s.pushSample b).dec.pos = (nextPos s.par)^[s.winN.val + (1 - s.skipCnt) - 2] s.dec.pos := by
  rcases Nat.eq_zero_or_pos s.skipCnt with hkept | hdropped
  · rw [State.pushSample_kept s b hkept, State.deliver_withFir, hkept]
    exact ⟨s.deliver_winN _, s.deliver_pos _⟩
  · have hwinN : s.winN.val ≤ 2 := s.winN.is_le
    rw [State.pushSample_dropped s b hdropped, Nat.sub_eq_zero_of_le hdropped, Nat.add_zero, Nat.sub_eq_zero_of_le hwinN]
    exact ⟨(Nat.min_eq_right hwinN).symm, rfl⟩

/-- The command words of PUSH of each raw byte. -/
def pushes (raw : List Byte) : List CmdWord := raw.map fun b => encode (.push b)

theorem run_push_cons {s : State} (hopen : s.ended = false) (b : Byte) (ws : List CmdWord) :
    stateAfter s (encode (.push b) :: ws) = stateAfter (s.pushSample (sampleOf b)) ws ∧
      emissionsOf s (encode (.push b) :: ws) =
        (s.pushSample (sampleOf b)).out.toList ++ emissionsOf (s.pushSample (sampleOf b)) ws := by
  have hpush : exec (decode (encode (.push b))) s = .next (s.pushSample (sampleOf b)) := by
    rw [decode_encode, exec_push_of_open hopen]
  have hrun := runWords_cons_of_exec ws hpush
  simp only [stateAfter, emissionsOf, hrun, and_self]

/-- To cut a count off at 2 before or after adding to it comes to the same. -/
theorem min_two_add (v j : Nat) : min 2 (min 2 v + j) = min 2 (v + j) := by omega

/-- Of `v + j` symbols delivered all but two are processed, `v - 2` of them before the last `j` come. -/
theorem min_two_add_sub_two (v j : Nat) : min 2 v + j - 2 + (v - 2) = v + j - 2 := by omega

/-- After PUSHes from any open state: the symbols they deliver fill the window, and the rest moves `pos` on. -/
theorem stateAfter_pushes_counts {s : State} (hopen : s.ended = false) (raw : List Byte) :
    (stateAfter s (pushes raw)).skipCnt = s.skipCnt - raw.length ∧
      (stateAfter s (pushes raw)).winN.val = min 2 (s.winN.val + (raw.length - s.skipCnt)) ∧
      (stateAfter s (pushes raw)).fir.cursor.val = (s.fir.cursor.val + raw.length) % 16 ∧
      (stateAfter s (pushes raw)).dec.pos = (nextPos s.par)^[s.winN.val + (raw.length - s.skipCnt) - 2] s.dec.pos := by
  induction raw generalizing s with
  | nil =>
    have hwinN : s.winN.val ≤ 2 := s.winN.is_le
    have hrun : stateAfter s (pushes []) = s.presenting [] := rfl
    simp [hrun, hwinN, Nat.mod_eq_of_lt s.fir.cursor.isLt]
  | cons b rest ih =>
    have hdelivered : rest.length + 1 - s.skipCnt = 1 - s.skipCnt + (rest.length - (s.skipCnt - 1)) := by omega
    have hrun : stateAfter s (pushes (b :: rest)) = stateAfter (s.pushSample (sampleOf b)) (pushes rest) :=
      (run_push_cons hopen b (pushes rest)).1
    obtain ⟨hfir, hskip, hended⟩ := s.pushSample_filterSide (sampleOf b)
    obtain ⟨hwin, hpos⟩ := s.pushSample_counts (sampleOf b)
    have hpar : (s.pushSample (sampleOf b)).par = s.par := (exec_par_cmds (.push b) s _ (exec_push_of_open hopen b)).1
    obtain ⟨ihskip, ihwin, ihcursor, ihpos⟩ := ih (hended.trans hopen)
    rw [hrun, List.length_cons]
    refine ⟨?skipCnt, ?winN, ?cursor, ?pos⟩
    case skipCnt =>
      rw [ihskip, hskip, Nat.sub_right_comm]
      rfl
    case winN => rw [ihwin, hskip, hwin, hdelivered, ← Nat.add_assoc, min_two_add]
    case cursor =>
      rw [ihcursor, hfir, FilterState.push_cursor, Fin.val_add, Fin.val_one, Nat.mod_add_mod, Nat.add_right_comm,
        Nat.add_assoc]
    case pos =>
      rw [ihpos, hskip, hwin, hpos, hpar, hdelivered, ← Nat.add_assoc, ← Function.iterate_add_apply, min_two_add_sub_two]

/-- Settles O48: the PUSHes of a stream start from an empty window, cursor 0 and position 0. -/
theorem pushCountsOfEveryRegister : Obligations.PushCountsOfEveryRegister := by
  intro P raw t
  obtain ⟨hskip, hwinN, hcursor, hpos⟩ := stateAfter_pushes_counts (State.resetOf_ended P) raw
  simp only [State.resetOf_skipCnt, State.resetOf_winN, State.resetOf_fir, State.resetOf_dec, State.resetOf_par,
    FilterState.reset_cursor, DecoderState.reset_pos, Fin.val_zero, Nat.zero_add] at hskip hwinN hcursor hpos
  refine ⟨hskip, hwinN, hcursor, fun W hW => ?_, fun hW => ?_⟩
  · exact hpos.trans (iterate_nextPos_of_bounded hW _)
  · exact hpos.trans (iterate_nextPos_of_unbounded hW _)

/-! ### What a PUSH contributes to the pipeline -/

theorem symbolsOf_length (P : Params) (x : List Bit) : (symbolsOf P x).length = x.length - P.skip := by
  simp [symbolsOf]

theorem symbolsOf_getElem {P : Params} {x : List Bit} {m : Nat} (hm : m < (symbolsOf P x).length) :
    (symbolsOf P x)[m] = slice P.threshold (filtered P.kernel x (m + P.skip)) := by
  simp [symbolsOf]

/-- A filter output does not depend on later samples (spec/40_fir.md R95). -/
theorem filtered_append (K : Kernel) {x : List Bit} {n : Nat} (hn : n < x.length) (later : List Bit) :
    filtered K (x ++ later) n = filtered K x n := by
  have hsample (i : Nat) : sampleBack (x ++ later) n i = sampleBack x n i := by
    rw [sampleBack, sampleBack, List.getD_append _ _ _ _ (by omega)]
  simp only [filtered, hsample]

/-- After the samples `x` the next kept sample gives the next symbol of the stream. -/
theorem symbolsOf_drop {P : Params} {x : List Bit} (hkept : P.skip ≤ x.length) (b : Bit) (later : List Bit) :
    (symbolsOf P (x ++ b :: later)).drop (x.length - P.skip) =
      slice P.threshold ((FilterState.afterSamples x).output P.kernel b) ::
        (symbolsOf P (x ++ b :: later)).drop (x.length + 1 - P.skip) := by
  have hlt : x.length - P.skip < (symbolsOf P (x ++ b :: later)).length := by
    simp only [symbolsOf_length, List.length_append, List.length_cons]
    omega
  have hfiltered : filtered P.kernel (x ++ b :: later) x.length = filtered P.kernel (x ++ [b]) x.length := by
    rw [List.append_cons]
    exact filtered_append P.kernel (by simp) later
  rw [List.drop_eq_getElem_cons hlt, symbolsOf_getElem, Nat.sub_add_cancel hkept, hfiltered, FilterState.afterSamples_output,
    Nat.sub_add_comm hkept]

/-- A PUSH, dropped or kept, performs the calls of the list-based definition for the symbol it contributes, if any. -/
theorem decodeFrom_held_pushSample {s : State} {x : List Bit} (hfir : s.fir = FilterState.afterSamples x)
    (hskip : s.skipCnt = s.par.skip - x.length) (b : Bit) (later : List Bit) :
    (decodeFrom s.par s.dec (s.held ++ (symbolsOf s.par (x ++ b :: later)).drop (x.length - s.par.skip))).2 =
      (s.pushSample b).out.toList ++ (decodeFrom s.par (s.pushSample b).dec
        ((s.pushSample b).held ++ (symbolsOf s.par (x ++ b :: later)).drop (x.length + 1 - s.par.skip))).2 := by
  rcases Nat.eq_zero_or_pos s.skipCnt with hkept | hdropped
  · rw [State.pushSample_kept s b hkept, State.deliver_withFir, hfir, symbolsOf_drop (by omega)]
    exact congrArg Prod.snd (decodeFrom_held_append_cons s _ _)
  · rw [State.pushSample_dropped s b hdropped, show x.length + 1 - s.par.skip = x.length - s.par.skip by omega]
    rfl

/-- The command words of PUSH of each raw byte and then END. -/
def pushesThenEnd (raw : List Byte) : List CmdWord := pushes raw ++ [encode .endStream]

/-- After the samples `x` the rest of the stream decodes what the window holds followed by the symbols still to come. -/
theorem emissionsOf_pushesThenEnd {s : State} {x : List Bit} (hopen : s.ended = false) (hfir : s.fir = FilterState.afterSamples x)
    (hskip : s.skipCnt = s.par.skip - x.length) (raw : List Byte) :
    emissionsOf s (pushesThenEnd raw) =
      (decodeFrom s.par s.dec (s.held ++ (symbolsOf s.par (x ++ raw.map sampleOf)).drop (x.length - s.par.skip))).2 := by
  induction raw generalizing s x with
  | nil =>
    have hnone : (symbolsOf s.par (x ++ [])).drop (x.length - s.par.skip) = [] := by
      rw [List.append_nil, ← symbolsOf_length, List.drop_length]
    rw [List.map_nil, hnone]
    exact (runWords_symsThenEnd hopen []).1
  | cons b rest ih =>
    obtain ⟨hfir', hskip', hended'⟩ := s.pushSample_filterSide (sampleOf b)
    have hpar : (s.pushSample (sampleOf b)).par = s.par := (exec_par_cmds (.push b) s _ (exec_push_of_open hopen b)).1
    have hrest := ih (x := x ++ [sampleOf b]) (hended'.trans hopen)
      (by rw [hfir', hfir, FilterState.afterSamples_append])
      (by rw [hskip', hskip, hpar, List.length_append]; rfl)
    rw [hpar, List.length_append, ← List.append_cons] at hrest
    have hrun : emissionsOf s (pushesThenEnd (b :: rest)) =
        (s.pushSample (sampleOf b)).out.toList ++ emissionsOf (s.pushSample (sampleOf b)) (pushesThenEnd rest) :=
      (run_push_cons hopen b (pushesThenEnd rest)).2
    rw [hrun, hrest]
    exact (decodeFrom_held_pushSample hfir hskip (sampleOf b) (rest.map sampleOf)).symm

/-- Settles O46: without its IDLE steps the run is PUSH, or SYM, of each byte and then END, from no sample and an empty window. -/
theorem pushedStreamDrivesThePipeline : Obligations.PushedStreamDrivesThePipeline := by
  have hidle := idleChangesNothingAndMayBeInsertedAnywhere.2
  refine ⟨fun P raw ws hws => ?_, fun P symbols ws hws => ?_⟩
  · rw [(hidle (State.resetOf P) ws).2, hws]
    have h := emissionsOf_pushesThenEnd (s := State.resetOf P) (x := []) rfl rfl rfl raw
    rwa [State.held_of_empty rfl, List.length_nil, Nat.zero_sub, List.drop_zero, List.nil_append, List.nil_append] at h
  · rw [(hidle (State.resetOf P) ws).2, hws]
    exact (streamingDecoderMatchesTheReference (State.resetOf P) symbols rfl rfl).1

end Sys2Proof.Machine
end

section
/-! Totality (spec/60_exceptions.md R160): every operation and every step completes, and a run takes all its words. -/

namespace Sys2Proof.Machine

/-- Every operation completes and leaves the words to come. -/
theorem exists_exec_eq_next_and_cmds (i : Instr) (s : State) : ∃ t, exec i s = .next t ∧ t.cmds = s.cmds := by
  obtain ⟨t, ht⟩ := exists_exec_eq_next i s
  exact ⟨t, ht, (exec_par_cmds i s t ht).2⟩

/-- A step takes the word it runs from the words to come (spec/43_stream_ops.md R140). -/
theorem exists_step_eq_next_and_cmds (s : State) : ∃ t, step s = .next t ∧ t.cmds = s.cmds.tail := by
  obtain ⟨t, ht, hcmds⟩ := exists_exec_eq_next_and_cmds (decode s.fetch.1) s.fetch.2
  rw [State.fetch_registers] at hcmds
  exact ⟨t, ht, hcmds⟩

theorem stateAfter_cmds (s : State) (ws : List CmdWord) : (stateAfter s ws).cmds = [] := by
  induction ws generalizing s with
  | nil => rfl
  | cons cw ws ih =>
    obtain ⟨t, ht⟩ := exists_exec_eq_next (decode cw) s
    rw [stateAfter, runWords_cons_of_exec ws ht]
    exact ih t

/-- The output port holds at most one pair, so a run emits at most one pair per word. -/
theorem emissionsOf_length_le (s : State) (ws : List CmdWord) : (emissionsOf s ws).length ≤ ws.length := by
  induction ws generalizing s with
  | nil => exact Nat.le_refl 0
  | cons cw ws ih =>
    obtain ⟨t, ht⟩ := exists_exec_eq_next (decode cw) s
    have hone : t.out.toList.length ≤ 1 := Option.length_toList_le
    have hrest : (runWords t ws).2.length ≤ ws.length := ih t
    rw [emissionsOf, runWords_cons_of_exec ws ht, List.length_append, List.length_cons]
    omega

/-- Settles O7: one operation, one step, and a run by induction on its words. -/
theorem everyStepAnswersANextState : Obligations.EveryStepAnswersANextState :=
  ⟨exists_exec_eq_next_and_cmds, exists_step_eq_next_and_cmds, fun s ws => ⟨stateAfter_cmds s ws, emissionsOf_length_le s ws⟩⟩

end Sys2Proof.Machine
end
